-- ==== Sys2Proof/Word.lean ====
section
/-! DEFINITION. The widths of the hardware's values (00_scope section 6, 10_state R10 to R16): every
value is an unsigned number of a stated width. -/

namespace Sys2Proof

/-- A memory cell or a general register: 8 bits. -/
abbrev Byte := BitVec 8

/-- An instruction word, the program counter or a stack entry: 16 bits. -/
abbrev Word := BitVec 16

/-- A 4-bit field of an instruction word, or a key code. -/
abbrev Nibble := BitVec 4

/-- A 12-bit address: the field NNN and the index register I. -/
abbrev Addr := BitVec 12

/-- The number of a general register V0..VF (10_state R10). -/
abbrev Reg := Fin 16

/-- The number of the flag register VF (10_state R11). -/
abbrev regF : Reg := 15

end Sys2Proof
end

