-- ==== Sys2Proof/Syntax.lean ====
section
/-! DEFINITION. The 34 instructions of the opcode map (30_encoding R54), one constructor per row, in the
order of spec/opcode_table.json. An operand has the width of its field (R51, R55). -/

namespace Sys2Proof

/-- An instruction of the core. The docstring of a constructor gives the spec's pattern and the
assembler form of 30_encoding R54. -/
inductive Instr where
  /-- 00E0, CLS -/
  | cls
  /-- 00EE, RET -/
  | ret
  /-- 1NNN, JP nnn -/
  | jp (nnn : Addr)
  /-- 2NNN, CALL nnn -/
  | call (nnn : Addr)
  /-- 3XKK, SE Vx, kk -/
  | seImm (x : Reg) (kk : Byte)
  /-- 4XKK, SNE Vx, kk -/
  | sneImm (x : Reg) (kk : Byte)
  /-- 5XY0, SE Vx, Vy -/
  | seReg (x y : Reg)
  /-- 6XKK, LD Vx, kk -/
  | ldImm (x : Reg) (kk : Byte)
  /-- 7XKK, ADD Vx, kk -/
  | addImm (x : Reg) (kk : Byte)
  /-- 8XY0, LD Vx, Vy -/
  | ldReg (x y : Reg)
  /-- 8XY1, OR Vx, Vy -/
  | orReg (x y : Reg)
  /-- 8XY2, AND Vx, Vy -/
  | andReg (x y : Reg)
  /-- 8XY3, XOR Vx, Vy -/
  | xorReg (x y : Reg)
  /-- 8XY4, ADD Vx, Vy -/
  | addReg (x y : Reg)
  /-- 8XY5, SUB Vx, Vy -/
  | subReg (x y : Reg)
  /-- 8XY6, SHR Vx; Y is decoded and has no effect (30_encoding R57) -/
  | shr (x y : Reg)
  /-- 8XY7, SUBN Vx, Vy -/
  | subnReg (x y : Reg)
  /-- 8XYE, SHL Vx; Y is decoded and has no effect (30_encoding R57) -/
  | shl (x y : Reg)
  /-- 9XY0, SNE Vx, Vy -/
  | sneReg (x y : Reg)
  /-- ANNN, LD I, nnn -/
  | ldI (nnn : Addr)
  /-- BNNN, JP V0, nnn -/
  | jpV0 (nnn : Addr)
  /-- CXKK, RND Vx, kk -/
  | rnd (x : Reg) (kk : Byte)
  /-- DXYN, DRW Vx, Vy, n -/
  | drw (x y : Reg) (n : Nibble)
  /-- EX9E, SKP Vx -/
  | skp (x : Reg)
  /-- EXA1, SKNP Vx -/
  | sknp (x : Reg)
  /-- FX07, LD Vx, DT -/
  | ldVxDt (x : Reg)
  /-- FX0A, LD Vx, K -/
  | ldVxKey (x : Reg)
  /-- FX15, LD DT, Vx -/
  | ldDtVx (x : Reg)
  /-- FX18, LD ST, Vx -/
  | ldStVx (x : Reg)
  /-- FX1E, ADD I, Vx -/
  | addI (x : Reg)
  /-- FX29, LD F, Vx -/
  | ldFont (x : Reg)
  /-- FX33, LD B, Vx -/
  | ldBcd (x : Reg)
  /-- FX55, LD [I], Vx: X is the last register stored -/
  | storeRegs (x : Reg)
  /-- FX65, LD Vx, [I]: X is the last register loaded -/
  | loadRegs (x : Reg)
deriving DecidableEq, Repr

end Sys2Proof
end

