-- ==== Sys2Proof/WellFormed.lean ====
section
/-! DEFINITION. Well-formedness: the operands of an instruction, written as numerals, fit the fields of
30_encoding R51 (R55: register numbers 0..15, N 0..15, KK 0..255, NNN 0..4095). -/

namespace Sys2Proof

/-- The operands of an instruction as the numerals an assembler listing writes (30_encoding R59); an
operand the instruction does not have is 0. -/
structure Fields where
  x : Nat := 0
  y : Nat := 0
  n : Nat := 0
  kk : Nat := 0
  nnn : Nat := 0
deriving DecidableEq, Repr

/-- X and Y name one of 16 registers, N fits 4 bits, KK fits 8 and NNN fits 12 (30_encoding R51). -/
def Fields.fit (f : Fields) : Bool :=
  f.x < 16 && f.y < 16 && f.n < 16 && f.kk < 256 && f.nnn < 4096

/-- The operands of each instruction, by the format of its row (30_encoding R52). -/
def Instr.fields : Instr → Fields
  | .cls | .ret => {}
  | .jp nnn | .call nnn | .ldI nnn | .jpV0 nnn => { nnn := nnn.toNat }
  | .seImm x kk | .sneImm x kk | .ldImm x kk | .addImm x kk | .rnd x kk =>
    { x := x.val, kk := kk.toNat }
  | .seReg x y | .sneReg x y | .ldReg x y | .orReg x y | .andReg x y | .xorReg x y | .addReg x y
  | .subReg x y | .shr x y | .subnReg x y | .shl x y => { x := x.val, y := y.val }
  | .drw x y n => { x := x.val, y := y.val, n := n.toNat }
  | .skp x | .sknp x | .ldVxDt x | .ldVxKey x | .ldDtVx x | .ldStVx x | .addI x | .ldFont x
  | .ldBcd x | .storeRegs x | .loadRegs x => { x := x.val }

/-- An instruction is well formed when its operands fit their fields. The operand types of `Instr`
have the fields' widths, so every instruction is (Laws/Encoding.lean); the check bites on numerals. -/
def Instr.WellFormed (i : Instr) : Bool := i.fields.fit

end Sys2Proof
end

