-- ==== Sys2Proof/Decode.lean ====
section
/-! DEFINITION. Decoding (30_encoding R51 to R57), the opcode map (R54), and the encoder (R61). Decoding
is total: a word that matches no row is rejected by name. -/

namespace Sys2Proof

/-! ## Fields of a word (30_encoding R51) -/

/-- OP = w[15:12]. -/
def fieldOP (w : Word) : Nibble := w.extractLsb' 12 4

/-- X = w[11:8], a register number. -/
def fieldX (w : Word) : Reg := (w.extractLsb' 8 4).toFin

/-- Y = w[7:4], a register number. -/
def fieldY (w : Word) : Reg := (w.extractLsb' 4 4).toFin

/-- N = w[3:0]. -/
def fieldN (w : Word) : Nibble := w.extractLsb' 0 4

/-- KK = w[7:0]. -/
def fieldKK (w : Word) : Byte := w.extractLsb' 0 8

/-- NNN = w[11:0]. -/
def fieldNNN (w : Word) : Addr := w.extractLsb' 0 12

/-! ## Decoding (30_encoding R53) -/

/-- Why bytes are no instruction. -/
inductive Rejection where
  /-- the word matches no row of the opcode map (30_encoding R56) -/
  | unrecognized (w : Word)
  /-- fewer than the two bytes of an instruction word (30_encoding R50) -/
  | truncated
deriving DecidableEq, Repr

/-- Sub-dispatch for OP = 0x8 on the low nibble (30_encoding R53, R54). -/
def decode8 (w : Word) : Except Rejection Instr :=
  let x := fieldX w
  let y := fieldY w
  match (fieldN w).toNat with
  | 0x0 => .ok (.ldReg x y)
  | 0x1 => .ok (.orReg x y)
  | 0x2 => .ok (.andReg x y)
  | 0x3 => .ok (.xorReg x y)
  | 0x4 => .ok (.addReg x y)
  | 0x5 => .ok (.subReg x y)
  | 0x6 => .ok (.shr x y)
  | 0x7 => .ok (.subnReg x y)
  | 0xE => .ok (.shl x y)
  | _ => .error (.unrecognized w)

/-- Sub-dispatch for OP = 0xE on the low byte (30_encoding R53, R54). -/
def decodeE (w : Word) : Except Rejection Instr :=
  match (fieldKK w).toNat with
  | 0x9E => .ok (.skp (fieldX w))
  | 0xA1 => .ok (.sknp (fieldX w))
  | _ => .error (.unrecognized w)

/-- Sub-dispatch for OP = 0xF on the low byte (30_encoding R53, R54). -/
def decodeF (w : Word) : Except Rejection Instr :=
  let x := fieldX w
  match (fieldKK w).toNat with
  | 0x07 => .ok (.ldVxDt x)
  | 0x0A => .ok (.ldVxKey x)
  | 0x15 => .ok (.ldDtVx x)
  | 0x18 => .ok (.ldStVx x)
  | 0x1E => .ok (.addI x)
  | 0x29 => .ok (.ldFont x)
  | 0x33 => .ok (.ldBcd x)
  | 0x55 => .ok (.storeRegs x)
  | 0x65 => .ok (.loadRegs x)
  | _ => .error (.unrecognized w)

/-- The instruction of a word: dispatch on the high nibble, then on the low byte or nibble
(30_encoding R53). For OP = 0x0 the whole word is compared; for 0x5 and 0x9 the low nibble must be 0. -/
def decodeWord (w : Word) : Except Rejection Instr :=
  match (fieldOP w).toNat with
  | 0x0 =>
    if w = 0x00E0 then .ok .cls else if w = 0x00EE then .ok .ret else .error (.unrecognized w)
  | 0x1 => .ok (.jp (fieldNNN w))
  | 0x2 => .ok (.call (fieldNNN w))
  | 0x3 => .ok (.seImm (fieldX w) (fieldKK w))
  | 0x4 => .ok (.sneImm (fieldX w) (fieldKK w))
  | 0x5 => if fieldN w = 0 then .ok (.seReg (fieldX w) (fieldY w)) else .error (.unrecognized w)
  | 0x6 => .ok (.ldImm (fieldX w) (fieldKK w))
  | 0x7 => .ok (.addImm (fieldX w) (fieldKK w))
  | 0x8 => decode8 w
  | 0x9 => if fieldN w = 0 then .ok (.sneReg (fieldX w) (fieldY w)) else .error (.unrecognized w)
  | 0xA => .ok (.ldI (fieldNNN w))
  | 0xB => .ok (.jpV0 (fieldNNN w))
  | 0xC => .ok (.rnd (fieldX w) (fieldKK w))
  | 0xD => .ok (.drw (fieldX w) (fieldY w) (fieldN w))
  | 0xE => decodeE w
  | 0xF => decodeF w
  | _ => .error (.unrecognized w)

/-- The word of two consecutive bytes, the one at the lower address more significant (20_memory R35). -/
def wordOfBytes (hi lo : Byte) : Word := hi ++ lo

/-- Decoding at the head of a byte sequence: the instruction and the bytes after it (30_encoding R50). -/
def decode : List Byte → Except Rejection (Instr × List Byte)
  | hi :: lo :: rest =>
    match decodeWord (wordOfBytes hi lo) with
    | .ok i => .ok (i, rest)
    | .error e => .error e
  | _ => .error .truncated

/-! ## The opcode map as data (30_encoding R54) -/

/-- One row of the opcode map: a word w selects it when w AND mask = pattern. -/
structure OpcodeRow where
  name : String
  mask : Word
  pattern : Word
deriving DecidableEq, Repr

/-- Whether a word selects a row (30_encoding R53). -/
def OpcodeRow.selects (r : OpcodeRow) (w : Word) : Bool := (w &&& r.mask) == r.pattern

/-- The row of each instruction, as the table of 30_encoding R54 prints it. -/
def Instr.row : Instr → OpcodeRow
  | .cls => ⟨"00E0", 0xFFFF, 0x00E0⟩
  | .ret => ⟨"00EE", 0xFFFF, 0x00EE⟩
  | .jp _ => ⟨"1NNN", 0xF000, 0x1000⟩
  | .call _ => ⟨"2NNN", 0xF000, 0x2000⟩
  | .seImm _ _ => ⟨"3XKK", 0xF000, 0x3000⟩
  | .sneImm _ _ => ⟨"4XKK", 0xF000, 0x4000⟩
  | .seReg _ _ => ⟨"5XY0", 0xF00F, 0x5000⟩
  | .ldImm _ _ => ⟨"6XKK", 0xF000, 0x6000⟩
  | .addImm _ _ => ⟨"7XKK", 0xF000, 0x7000⟩
  | .ldReg _ _ => ⟨"8XY0", 0xF00F, 0x8000⟩
  | .orReg _ _ => ⟨"8XY1", 0xF00F, 0x8001⟩
  | .andReg _ _ => ⟨"8XY2", 0xF00F, 0x8002⟩
  | .xorReg _ _ => ⟨"8XY3", 0xF00F, 0x8003⟩
  | .addReg _ _ => ⟨"8XY4", 0xF00F, 0x8004⟩
  | .subReg _ _ => ⟨"8XY5", 0xF00F, 0x8005⟩
  | .shr _ _ => ⟨"8XY6", 0xF00F, 0x8006⟩
  | .subnReg _ _ => ⟨"8XY7", 0xF00F, 0x8007⟩
  | .shl _ _ => ⟨"8XYE", 0xF00F, 0x800E⟩
  | .sneReg _ _ => ⟨"9XY0", 0xF00F, 0x9000⟩
  | .ldI _ => ⟨"ANNN", 0xF000, 0xA000⟩
  | .jpV0 _ => ⟨"BNNN", 0xF000, 0xB000⟩
  | .rnd _ _ => ⟨"CXKK", 0xF000, 0xC000⟩
  | .drw _ _ _ => ⟨"DXYN", 0xF000, 0xD000⟩
  | .skp _ => ⟨"EX9E", 0xF0FF, 0xE09E⟩
  | .sknp _ => ⟨"EXA1", 0xF0FF, 0xE0A1⟩
  | .ldVxDt _ => ⟨"FX07", 0xF0FF, 0xF007⟩
  | .ldVxKey _ => ⟨"FX0A", 0xF0FF, 0xF00A⟩
  | .ldDtVx _ => ⟨"FX15", 0xF0FF, 0xF015⟩
  | .ldStVx _ => ⟨"FX18", 0xF0FF, 0xF018⟩
  | .addI _ => ⟨"FX1E", 0xF0FF, 0xF01E⟩
  | .ldFont _ => ⟨"FX29", 0xF0FF, 0xF029⟩
  | .ldBcd _ => ⟨"FX33", 0xF0FF, 0xF033⟩
  | .storeRegs _ => ⟨"FX55", 0xF0FF, 0xF055⟩
  | .loadRegs _ => ⟨"FX65", 0xF0FF, 0xF065⟩

/-- The 34 rows of the opcode map in the order of 30_encoding R54. -/
def opcodeMap : List OpcodeRow :=
  [.cls, .ret, .jp 0, .call 0, .seImm 0 0, .sneImm 0 0, .seReg 0 0, .ldImm 0 0, .addImm 0 0,
   .ldReg 0 0, .orReg 0 0, .andReg 0 0, .xorReg 0 0, .addReg 0 0, .subReg 0 0, .shr 0 0,
   .subnReg 0 0, .shl 0 0, .sneReg 0 0, .ldI 0, .jpV0 0, .rnd 0 0, .drw 0 0 0, .skp 0, .sknp 0,
   .ldVxDt 0, .ldVxKey 0, .ldDtVx 0, .ldStVx 0, .addI 0, .ldFont 0, .ldBcd 0, .storeRegs 0,
   .loadRegs 0].map Instr.row

/-! ## Encoding (30_encoding R52, R61) -/

/-- Format NNN: OP, NNN. -/
def formatNNN (op : Nibble) (nnn : Addr) : Word := op ++ nnn

/-- Format XKK: OP, X, KK. -/
def formatXKK (op : Nibble) (x : Reg) (kk : Byte) : Word := op ++ BitVec.ofFin (w := 4) x ++ kk

/-- Formats XY and XYN: OP, X, Y, and the secondary opcode or N. -/
def formatXYN (op : Nibble) (x y : Reg) (n : Nibble) : Word :=
  op ++ BitVec.ofFin (w := 4) x ++ BitVec.ofFin (w := 4) y ++ n

/-- The word of an instruction: the fixed digits of its row with the operand fields inserted at their
bit positions (30_encoding R52, R61). -/
def encode : Instr → Word
  | .cls => 0x00E0
  | .ret => 0x00EE
  | .jp nnn => formatNNN 0x1 nnn
  | .call nnn => formatNNN 0x2 nnn
  | .seImm x kk => formatXKK 0x3 x kk
  | .sneImm x kk => formatXKK 0x4 x kk
  | .seReg x y => formatXYN 0x5 x y 0x0
  | .ldImm x kk => formatXKK 0x6 x kk
  | .addImm x kk => formatXKK 0x7 x kk
  | .ldReg x y => formatXYN 0x8 x y 0x0
  | .orReg x y => formatXYN 0x8 x y 0x1
  | .andReg x y => formatXYN 0x8 x y 0x2
  | .xorReg x y => formatXYN 0x8 x y 0x3
  | .addReg x y => formatXYN 0x8 x y 0x4
  | .subReg x y => formatXYN 0x8 x y 0x5
  | .shr x y => formatXYN 0x8 x y 0x6
  | .subnReg x y => formatXYN 0x8 x y 0x7
  | .shl x y => formatXYN 0x8 x y 0xE
  | .sneReg x y => formatXYN 0x9 x y 0x0
  | .ldI nnn => formatNNN 0xA nnn
  | .jpV0 nnn => formatNNN 0xB nnn
  | .rnd x kk => formatXKK 0xC x kk
  | .drw x y n => formatXYN 0xD x y n
  | .skp x => formatXKK 0xE x 0x9E
  | .sknp x => formatXKK 0xE x 0xA1
  | .ldVxDt x => formatXKK 0xF x 0x07
  | .ldVxKey x => formatXKK 0xF x 0x0A
  | .ldDtVx x => formatXKK 0xF x 0x15
  | .ldStVx x => formatXKK 0xF x 0x18
  | .addI x => formatXKK 0xF x 0x1E
  | .ldFont x => formatXKK 0xF x 0x29
  | .ldBcd x => formatXKK 0xF x 0x33
  | .storeRegs x => formatXKK 0xF x 0x55
  | .loadRegs x => formatXKK 0xF x 0x65

/-- The two bytes of a word as they lie in memory, high byte at the lower address (20_memory R35). -/
def bytesOfWord (w : Word) : List Byte := [w.extractLsb' 8 8, w.extractLsb' 0 8]

/-- The bytes of an instruction in memory order (30_encoding R61). -/
def encodeBytes (i : Instr) : List Byte := bytesOfWord (encode i)

/-- The instruction the decoder reads from a word whose bits are numbered as spec/opcode_table.json
numbers them, the bits above `nbits` being 0. -/
def decodeTableWord (nbits w : Nat) : Option Instr :=
  match decode (bytesOfWord (BitVec.ofNat 16 (w % 2 ^ nbits))) with
  | .ok (i, _) => some i
  | .error _ => none

end Sys2Proof
end

