-- ==== Sys2Proof/Config.lean ====
section
/-! DEFINITION. What is fixed for the machine (the parameters of 00_scope R3) and the free values: what
the host presents at the input ports (10_state R22), which no rule constrains. -/

namespace Sys2Proof.Config

/-- MEM_SIZE: addresses 0x000 to 0xFFF (20_memory R30). -/
abbrev memSize : Nat := 4096

/-- FONT_BASE (20_memory R31). -/
abbrev fontBase : Nat := 0

/-- GLYPH_STRIDE (42_index_memory R102). -/
abbrev glyphStride : Nat := 5

/-- PROG_BASE, the address of the first program byte and the entry point (20_memory R31, R44;
70_reset_and_hazards R162). -/
abbrev progBase : Nat := 0x200

/-- ROM_MAX: the longest ROM that fits (20_memory R44). -/
abbrev romMax : Nat := 3584

/-- FB_W (10_state R18). -/
abbrev fbWidth : Nat := 64

/-- FB_H (10_state R18). -/
abbrev fbHeight : Nat := 32

/-- STACK_DEPTH (10_state R16). -/
abbrev stackDepth : Nat := 16

/-- FONT: the 80 bytes of 20_memory R32, glyph g at 5 * g, top row first.
PRESUMED (log 6), unsafe: the spec lists these bytes from general knowledge (D5, G1), not from its
source. -/
def font : List Byte :=
  [0xF0, 0x90, 0x90, 0x90, 0xF0, 0x20, 0x60, 0x20, 0x20, 0x70,
   0xF0, 0x10, 0xF0, 0x80, 0xF0, 0xF0, 0x10, 0xF0, 0x10, 0xF0,
   0x90, 0x90, 0xF0, 0x10, 0x10, 0xF0, 0x80, 0xF0, 0x10, 0xF0,
   0xF0, 0x80, 0xF0, 0x90, 0xF0, 0xF0, 0x10, 0x20, 0x40, 0x40] ++
  [0xF0, 0x90, 0xF0, 0x90, 0xF0, 0xF0, 0x90, 0xF0, 0x10, 0xF0,
   0xF0, 0x90, 0xF0, 0x90, 0x90, 0xE0, 0x90, 0xE0, 0x90, 0xE0,
   0xF0, 0x80, 0x80, 0x80, 0xF0, 0xE0, 0x90, 0x90, 0x90, 0xE0,
   0xF0, 0x80, 0xF0, 0x80, 0xF0, 0xF0, 0x80, 0xF0, 0x80, 0x80]

/-- FREE VALUE: the port KEYS at the n-th Step for which the host has queued no sample (log 3). -/
opaque freeKeys : Nat → BitVec 16

/-- FREE VALUE: the port KEYEVENT at such a Step (log 3). -/
opaque freeKeyEvent : Nat → Option Nibble

/-- FREE VALUE: the port RND at such a Step (log 3; 41_alu R91, D15). -/
opaque freeRnd : Nat → Byte

end Sys2Proof.Config
end

