-- ==== Sys2Proof/Machine/State.lean ====
section
/-! DEFINITION. The state of the core (10_state R24), the model's own record of its host interface, and
the state right after reset (10_state R25). All of it is plain data. -/

namespace Sys2Proof.Machine

/-- The five fatal error kinds (60_exceptions R130). -/
inductive ErrKind where
  /-- code 1, raised by Reset: the ROM is longer than 3584 bytes (R131) -/
  | loadError
  /-- code 2, raised by 2NNN with SP = 16 (R132) -/
  | stackOverflow
  /-- code 3, raised by 00EE with SP = 0 (R133) -/
  | stackUnderflow
  /-- code 4, raised by instruction fetch, DXYN, FX33, FX55 and FX65 (R134) -/
  | memoryOutOfBounds
  /-- code 5, raised by DXYN (R135) -/
  | frameBufferOutOfBounds
deriving DecidableEq, Repr

/-- The event forms of the output DIAG (10_state R23). -/
inductive DiagEvent where
  /-- an unrecognized opcode: the fetch address and the word (30_encoding R56) -/
  | unknown (addr word : Word)
  /-- a fatal error: its kind, the pc, and the fetched word or 0 (60_exceptions R136) -/
  | fatal (kind : ErrKind) (addr word : Word)
deriving DecidableEq, Repr

/-- One sample of the three input ports (10_state R22). -/
structure Ports where
  /-- KEYS[k] = 1 while key k is pressed -/
  keys : BitVec 16
  /-- a key newly pressed, with its code, or none -/
  keyEvent : Option Nibble
  /-- the random byte of CXKK -/
  rnd : Byte
deriving DecidableEq, Repr

/-- The five operations the host invokes (00_scope R4). -/
inductive HostOp where
  /-- Reset(rom) (70_reset_and_hazards R160) -/
  | reset (rom : List Byte)
  /-- Step(KEYS, KEYEVENT, RND) (30_encoding R58) -/
  | step (ports : Ports)
  /-- TimerTick() (60_exceptions R143) -/
  | timerTick
  /-- ClearDirty() (60_exceptions R147) -/
  | clearDirty
  /-- ReadFrame() (60_exceptions R147) -/
  | readFrame
deriving DecidableEq, Repr

/-- The bytes of MEM that differ from their reset contents, as (address, byte) pairs in strictly rising
order of address; an address not listed reads as `Memory.initial` (Ops.lean) says. -/
abbrev Memory := List Host.Cell

/-- FB[y][x]: 32 rows of 64 cells, true when the pixel is on (10_state R18). -/
abbrev Framebuffer := Vector (Vector Bool 64) 32

/-- The state. The fields down to `err` are the state elements of 10_state R24; the last four are the
model's own: ports, DIAG and the schedule are not state of the core (R24; logs 2, 3, 4). -/
structure State where
  /-- the general registers V0..VF (R10); VF is number 15 (R11) -/
  v : Vector Byte 16
  /-- the index register I (R13) -/
  i : Addr
  /-- the program counter (R14) -/
  pc : Word
  /-- STACK[0..15] (R16) -/
  stack : Vector Word 16
  /-- SP, the number of entries in use, 0..16 (R16) -/
  sp : Fin 17
  /-- DT, the delay timer (R17) -/
  dt : Byte
  /-- ST, the sound timer (R17) -/
  st : Byte
  /-- MEM (20_memory R30) -/
  mem : Memory
  /-- FB (R18) -/
  fb : Framebuffer
  /-- DIRTY (R19) -/
  dirty : Bool
  /-- WAIT (R20) -/
  wait : Bool
  /-- WAITX (R20) -/
  waitX : Reg
  /-- ERR (R21); none is the spec's None -/
  err : Option ErrKind
  /-- the sample of the input ports the Step in progress works with (R22; log 3) -/
  ports : Ports
  /-- which free sample is taken next (log 3) -/
  sampleIx : Nat
  /-- the events emitted on DIAG so far, oldest first (R23; log 4) -/
  diag : List DiagEvent
  /-- the operations the host invokes next, oldest first (00_scope R4; log 2) -/
  pending : List HostOp
deriving DecidableEq, Repr

/-- The state after Reset with an empty ROM (10_state R25). The values R25 marks as the spec's own
decisions D2, D3, D4, D23 are in log 7; the model's own fields are DESIGN CHOICE (logs 2, 3, 4). -/
def State.reset : State where
  v := Vector.replicate 16 0
  i := 0
  pc := BitVec.ofNat 16 Config.progBase
  stack := Vector.replicate 16 0
  sp := 0
  dt := 0
  st := 0
  mem := []
  fb := Vector.replicate 32 (Vector.replicate 64 false)
  dirty := false
  wait := false
  waitX := 0
  err := none
  ports := { keys := 0, keyEvent := none, rnd := 0 }
  sampleIx := 0
  diag := []
  pending := []

/-- The reasons a step could stop the machine. There is none, so nothing raises one: the fatal errors of
60_exceptions R130 do not stop the machine, they latch ERR and leave a next state (R136; log 1). Safe:
a statement that a step answers a next state is then a theorem about every state. -/
inductive Fault where
deriving DecidableEq, Repr

/-- The reasons an instruction could have no meaning. -/
inductive Refusal where
  /-- Raised by exec's arm of an instruction that has no meaning yet; no arm raises it now. Safe: the
  model stops where the hardware goes on. -/
  | notModelled (mnemonic : String)
deriving DecidableEq, Repr

end Sys2Proof.Machine
end

