-- ==== Sys2Proof/Machine/Ops.lean ====
section
/-! DEFINITION. The named operations over the state: memory, registers, the program counter, the call
stack, the framebuffer, raising a fatal error and leaving it by Reset, the timers, and the host's
operations. -/

namespace Sys2Proof.Machine

/-! ## Memory (20_memory) -/

/-- What an address that nothing has changed since Reset reads as: the font table at FONT_BASE, 0x00
elsewhere (20_memory R31, R32; 10_state R25; logs 6, 7). -/
def Memory.initial (a : Nat) : Byte := (Config.font[a - Config.fontBase]?).getD 0

/-- MemRead(a, 1), for an address that exists (20_memory R33). The callers check the bounds first. -/
def Memory.read (m : Memory) (a : Nat) : Byte := (m.lookup a).getD (Memory.initial a)

/-- The list without an entry for `a`. -/
def Memory.erase (m : Memory) (a : Nat) : Memory := m.filter (fun c => c.1 != a)

/-- The list with an entry for `a` at its place in the rising order. -/
def Memory.insert (a : Nat) (b : Byte) : Memory → Memory
  | [] => [(a, b)]
  | c :: m => if a < c.1 then (a, b) :: c :: m else c :: Memory.insert a b m

/-- MemWrite(a, 1, b) (20_memory R33): an address above 0xFFF is not accessed; a byte equal to the
reset contents leaves no entry. -/
def Memory.write (m : Memory) (a : Nat) (b : Byte) : Memory :=
  if a < Config.memSize then
    if b = Memory.initial a then m.erase a else Memory.insert a b (m.erase a)
  else m

/-- Writes consecutive bytes from `a` upward, in ascending order (20_memory R38). -/
def Memory.writeBytes (m : Memory) (a : Nat) : List Byte → Memory
  | [] => m
  | b :: bs => Memory.writeBytes (m.write a b) (a + 1) bs

/-- The `n` bytes from `a` upward, in ascending order (20_memory R38). -/
def Memory.readBytes (m : Memory) (a : Nat) : Nat → List Byte
  | 0 => []
  | n + 1 => m.read a :: Memory.readBytes m (a + 1) n

/-- The canonical form: strictly rising addresses below 0x1000, and no entry that says what an
unlisted address reads as. -/
abbrev Memory.wf (m : Memory) : Prop :=
  m.Pairwise (fun c d => c.1 < d.1) ∧
    ∀ c ∈ m, c.1 < Config.memSize ∧ c.2 ≠ Memory.initial c.1

/-- Whether `n` bytes from I upward lie inside memory: I + n - 1 is at most 0xFFF (20_memory R34, R38).
The address is an exact integer and is not wrapped (R33). -/
def State.spanFits (s : State) (n : Nat) : Bool := s.i.toNat + n ≤ Config.memSize

/-- The word at pc, big-endian (20_memory R35); made only when pc ≤ 0x0FFE (R34). -/
def State.fetchWord (s : State) : Word :=
  wordOfBytes (s.mem.read s.pc.toNat) (s.mem.read (s.pc.toNat + 1))

/-- Whether the two bytes at pc lie inside memory: pc ≤ 0x0FFE (20_memory R34, D8). -/
def State.canFetch (s : State) : Bool := s.pc.toNat ≤ 0x0FFE

/-! ## Registers and pc (10_state) -/

/-- V[x] (10_state R10). -/
def State.readV (s : State) (x : Reg) : Byte := s.v[x.val]

/-- V[x] <- b (10_state R10). -/
def State.writeV (s : State) (x : Reg) (b : Byte) : State := { s with v := s.v.set x.val b }

/-- Writes the bytes to V[k], V[k + 1], ... -/
def writeRegsFrom (v : Vector Byte 16) (k : Nat) : List Byte → Vector Byte 16
  | [] => v
  | b :: bs => writeRegsFrom (v.setIfInBounds k b) (k + 1) bs

/-- pc <- pc + 2 (10_state R15). -/
def State.advance (s : State) : State := { s with pc := s.pc + 2 }

/-- pc <- pc + 4 when the condition holds, else pc + 2 (10_state R15). -/
def State.skipIf (s : State) (c : Bool) : State := { s with pc := if c then s.pc + 4 else s.pc + 2 }

/-- pc <- target (10_state R15). -/
def State.jump (s : State) (target : Word) : State := { s with pc := target }

/-! ## Call stack (10_state R16) -/

/-- STACK[SP] <- pc, then SP <- SP + 1, for SP < 16. -/
def State.push (s : State) : State :=
  { s with stack := s.stack.setIfInBounds s.sp.val s.pc, sp := s.sp + 1 }

/-- STACK[SP - 1], for SP > 0. -/
def State.stackTop (s : State) : Word := s.stack[s.sp.val - 1]'(by omega)

/-- SP <- SP - 1, for SP > 0; the entry keeps its value. -/
def State.pop (s : State) : State := { s with sp := s.sp - 1 }

/-! ## Framebuffer (10_state R18) -/

/-- FB[y][x]; false outside the grid. -/
def Framebuffer.pixel (fb : Framebuffer) (x y : Nat) : Bool :=
  match fb[y]? with
  | some row => (row[x]?).getD false
  | none => false

/-- FB[y][x] <- FB[y][x] ^ 1 for the cell c = (x, y); nothing outside the grid. -/
def Framebuffer.toggle (fb : Framebuffer) (c : Nat × Nat) : Framebuffer :=
  match fb[c.2]? with
  | some row => fb.setIfInBounds c.2 (row.setIfInBounds c.1 (!fb.pixel c.1 c.2))
  | none => fb

/-- Toggles each cell of the list once per occurrence. -/
def Framebuffer.toggleAll (fb : Framebuffer) (cells : List (Nat × Nat)) : Framebuffer :=
  cells.foldl Framebuffer.toggle fb

/-- The grid with every cell 0. -/
def Framebuffer.clear : Framebuffer := Vector.replicate 32 (Vector.replicate 64 false)

/-! ## Fatal errors (60_exceptions R136) and Reset, the only way out of one (R137) -/

/-- emit DIAG(e) (10_state R23). -/
def State.emit (s : State) (e : DiagEvent) : State := { s with diag := s.diag ++ [e] }

/-- Fault entry: ERR <- k and Fatal(k, pc, w) on DIAG, nothing else (60_exceptions R136, D17). Its callers
raise before any write, so pc still is the faulting instruction's. -/
def State.raise (s : State) (k : ErrKind) (w : Word) : State :=
  State.emit { s with err := some k } (.fatal k s.pc w)

/-- The code latched in ERR (10_state R21, 60_exceptions R130). -/
def errCode : Option ErrKind → Nat
  | none => 0
  | some .loadError => 1
  | some .stackOverflow => 2
  | some .stackUnderflow => 3
  | some .memoryOutOfBounds => 4
  | some .frameBufferOutOfBounds => 5

/-- What Reset(rom) makes of the state elements (70_reset_and_hazards R160): the reset values, and the ROM
bytes from PROG_BASE, or LoadError when the ROM is longer than ROM_MAX (20_memory R44, 10_state R26). -/
def State.afterReset (rom : List Byte) : State :=
  if Config.romMax < rom.length then State.reset.raise .loadError 0
  else { State.reset with mem := Memory.writeBytes [] Config.progBase rom }

/-- Reset(rom) in any state (70_reset_and_hazards R160): nothing of the earlier state survives. DIAG keeps
the events already emitted, and the schedule and the count of free samples go on: they are not state of
the core (10_state R24; logs 2, 3, 4). -/
def State.resetWith (s : State) (rom : List Byte) : State :=
  let r := State.afterReset rom
  { r with diag := s.diag ++ r.diag, pending := s.pending, sampleIx := s.sampleIx }

/-- An unrecognized opcode: Unknown(pc, w) on DIAG and pc + 2 (30_encoding R56, D16). -/
def State.reportUnknown (s : State) (w : Word) : State := (s.emit (.unknown s.pc w)).advance

/-! ## Timers, dirty flag, outputs (60_exceptions R143, R147) -/

/-- One tick of an 8-bit down-counter: never below 0 (60_exceptions R143). -/
def tickDown (t : Byte) : Byte := if t = 0 then 0 else t - 1

/-- TimerTick() (60_exceptions R143); nothing while an error is latched (R151). -/
def State.timerTick (s : State) : State :=
  if s.err.isSome then s else { s with dt := tickDown s.dt, st := tickDown s.st }

/-- ClearDirty() (60_exceptions R147). -/
def State.clearDirty (s : State) : State := { s with dirty := false }

/-- What ReadFrame() returns (60_exceptions R147). -/
structure Frame where
  width : Nat
  height : Nat
  pixels : Framebuffer
  dirty : Bool
deriving DecidableEq, Repr

/-- ReadFrame(): the snapshot; it changes no state (60_exceptions R147; log 5). -/
def State.readFrame (s : State) : Frame :=
  { width := Config.fbWidth, height := Config.fbHeight, pixels := s.fb, dirty := s.dirty }

/-- The output SND (10_state R23). -/
def State.snd (s : State) : Bool := 0 < s.st.toNat

/-! ## Input ports (10_state R22) -/

/-- The sample of a Step for which the host has queued none: free values, fresh at every such Step
(log 3). -/
def State.sampleFree (s : State) : State :=
  { s with
    ports :=
      { keys := Config.freeKeys s.sampleIx
        keyEvent := Config.freeKeyEvent s.sampleIx
        rnd := Config.freeRnd s.sampleIx }
    sampleIx := s.sampleIx + 1 }

/-- The sample the host presents with a Step. -/
def State.samplePorts (s : State) (p : Ports) : State := { s with ports := p }

/-- A Step that begins with WAIT = 1 (44_keys_timers R126, D14): with a key event, V[WAITX] <- its code,
WAIT <- 0 and pc + 2; with none, nothing. -/
def State.pollKey (s : State) : State :=
  match s.ports.keyEvent with
  | some k => (State.advance { s.writeV s.waitX (k.setWidth 8) with wait := false })
  | none => s

/-- The state with the word `w` where the next Step fetches, and with whatever would keep that Step from
fetching out of the way: queued operations, a latched error, a key wait, a pc beyond 0x0FFE. -/
def State.placeWord (s : State) (w : Word) : State :=
  let pc : Word := if s.canFetch then s.pc else BitVec.ofNat 16 Config.progBase
  { s with
    pc := pc
    mem := s.mem.writeBytes pc.toNat (bytesOfWord w)
    wait := false
    err := none
    pending := [] }

end Sys2Proof.Machine
end

