-- ==== Sys2Proof/Machine/Flags.lean ====
section
/-! DEFINITION. The flag computations (41_alu R93; 42_index_memory R101) and the write of a result with
its flag (10_state R12). The hardware is unsigned; each comparison is on exact integers. -/

namespace Sys2Proof.Machine

/-- A flag as the byte VF holds: 1 or 0 (10_state R11). -/
def flagByte (f : Bool) : Byte := if f then 1 else 0

/-- 8XY4: a + b > 255 (41_alu R86). -/
def flagCarry (a b : Byte) : Bool := 255 < a.toNat + b.toNat

/-- 8XY5 with (VX, VY), 8XY7 with (VY, VX): strictly greater (41_alu R87, R89, R93). -/
def flagGreater (a b : Byte) : Bool := b.toNat < a.toNat

/-- 8XY6: a mod 2, the bit shifted out at the bottom (41_alu R88). -/
def flagLowBit (a : Byte) : Bool := a.toNat % 2 = 1

/-- 8XYE: a div 128, the bit shifted out at the top (41_alu R90). -/
def flagHighBit (a : Byte) : Bool := a.toNat / 128 = 1

/-- FX1E: I + VX > 0xFFF (42_index_memory R101). -/
def flagIndexOverflow (i : Addr) (a : Byte) : Bool := 0xFFF < i.toNat + a.toNat

/-- The result to V[x], then the flag to VF; with x = 15 the flag is what VF holds afterwards
(10_state R12, the spec's decision D7; log 9). -/
def State.writeWithFlag (s : State) (x : Reg) (result : Byte) (flag : Bool) : State :=
  (s.writeV x result).writeV regF (flagByte flag)

end Sys2Proof.Machine
end

