-- ==== Sys2Proof/Machine/Alu.lean ====
section
/-! DEFINITION. Register load, arithmetic, logic, shift and random (41_alu). Byte arithmetic wraps modulo
256 (R92). None of these faults; each advances pc by 2. -/

namespace Sys2Proof.Machine

open Host (Outcome)

/-- 6XKK (41_alu R80). -/
def execLdImm (x : Reg) (kk : Byte) (s : State) : Outcome State Fault Refusal :=
  .next (s.writeV x kk).advance

/-- 7XKK (41_alu R81). -/
def execAddImm (x : Reg) (kk : Byte) (s : State) : Outcome State Fault Refusal :=
  .next (s.writeV x (s.readV x + kk)).advance

/-- 8XY0 (41_alu R82). -/
def execLdReg (x y : Reg) (s : State) : Outcome State Fault Refusal :=
  .next (s.writeV x (s.readV y)).advance

/-- 8XY1 (41_alu R83). -/
def execOrReg (x y : Reg) (s : State) : Outcome State Fault Refusal :=
  .next (s.writeV x (s.readV x ||| s.readV y)).advance

/-- 8XY2 (41_alu R84). -/
def execAndReg (x y : Reg) (s : State) : Outcome State Fault Refusal :=
  .next (s.writeV x (s.readV x &&& s.readV y)).advance

/-- 8XY3 (41_alu R85). -/
def execXorReg (x y : Reg) (s : State) : Outcome State Fault Refusal :=
  .next (s.writeV x (s.readV x ^^^ s.readV y)).advance

/-- 8XY4 (41_alu R86). -/
def execAddReg (x y : Reg) (s : State) : Outcome State Fault Refusal :=
  .next (s.writeWithFlag x (s.readV x + s.readV y) (flagCarry (s.readV x) (s.readV y))).advance

/-- 8XY5 (41_alu R87). -/
def execSubReg (x y : Reg) (s : State) : Outcome State Fault Refusal :=
  .next (s.writeWithFlag x (s.readV x - s.readV y) (flagGreater (s.readV x) (s.readV y))).advance

/-- 8XY6 (41_alu R88); Y is ignored (30_encoding R57). -/
def execShr (x _y : Reg) (s : State) : Outcome State Fault Refusal :=
  .next (s.writeWithFlag x (s.readV x >>> 1) (flagLowBit (s.readV x))).advance

/-- 8XY7 (41_alu R89). -/
def execSubnReg (x y : Reg) (s : State) : Outcome State Fault Refusal :=
  .next (s.writeWithFlag x (s.readV y - s.readV x) (flagGreater (s.readV y) (s.readV x))).advance

/-- 8XYE (41_alu R90); Y is ignored (30_encoding R57). -/
def execShl (x _y : Reg) (s : State) : Outcome State Fault Refusal :=
  .next (s.writeWithFlag x (s.readV x <<< 1) (flagHighBit (s.readV x))).advance

/-- CXKK (41_alu R91): RND is the port sampled at this Step. -/
def execRnd (x : Reg) (kk : Byte) (s : State) : Outcome State Fault Refusal :=
  .next (s.writeV x (s.ports.rnd &&& kk)).advance

end Sys2Proof.Machine
end

