-- ==== Sys2Proof/Machine/Operands.lean ====
section
/-! DEFINITION. The operand forms beyond a plain register or immediate: jump targets, key lines, glyph
addresses, decimal digits, register ranges and sprites. -/

namespace Sys2Proof.Machine

/-- A 12-bit address zero-extended to pc's width (40_flow R71, R72). -/
def targetOf (nnn : Addr) : Word := nnn.setWidth 16

/-- The exact sum NNN + V0, 0x0000..0x10FE (40_flow R77). -/
def targetPlus (nnn : Addr) (v0 : Byte) : Word := nnn.setWidth 16 + v0.setWidth 16

/-- Whether the key line selected by the low nibble of `a` is pressed in the sample (44_keys_timers R120,
R121, the spec's decision D13; log 9). -/
def State.keyDown (s : State) (a : Byte) : Bool := s.ports.keys.getLsbD (a.toNat % 16)

/-- FONT_BASE + GLYPH_STRIDE * (a AND 0x0F) (42_index_memory R102). -/
def glyphAddr (a : Byte) : Addr :=
  BitVec.ofNat 12 (Config.fontBase + Config.glyphStride * (a.toNat % 16))

/-- The decimal digits of a byte: hundreds, tens, ones (42_index_memory R103). -/
def decimalDigits (a : Byte) : List Byte :=
  [BitVec.ofNat 8 (a.toNat / 100), BitVec.ofNat 8 (a.toNat / 10 % 10), BitVec.ofNat 8 (a.toNat % 10)]

/-- V0..VX, in order (42_index_memory R104). -/
def State.regsUpTo (s : State) (x : Reg) : List Byte := s.v.toList.take (x.val + 1)

/-- The grid cells (x, y) of one sprite row at row y: sprite column c is bit 7 - c and lies at x0 + c
(43_display R112, the spec's decision D12; log 9). -/
def rowCells (x0 y : Nat) (row : Byte) : List (Nat × Nat) :=
  ((List.range 8).filter (fun c => row.getLsbD (7 - c))).map (fun c => (x0 + c, y))

/-- The cells of the set bits of a sprite with its origin at (x0, y0), row by row (43_display R111, R112).
They are exact integers, not wrapped. -/
def spriteCells (x0 y0 : Nat) : List Byte → List (Nat × Nat)
  | [] => []
  | row :: rows => rowCells x0 y0 row ++ spriteCells x0 (y0 + 1) rows

/-- Whether a cell lies outside the grid: x > 63 or y > 31 (43_display R111). -/
def offGrid (c : Nat × Nat) : Bool := Config.fbWidth ≤ c.1 || Config.fbHeight ≤ c.2

/-- The cells a DXYN toggles: the sprite MEM[I .. I + N - 1] at (VX mod 64, VY mod 32) (43_display R111). -/
def State.drawCells (s : State) (x y : Reg) (n : Nibble) : List (Nat × Nat) :=
  spriteCells ((s.readV x).toNat % Config.fbWidth) ((s.readV y).toNat % Config.fbHeight)
    (s.mem.readBytes s.i.toNat n.toNat)

end Sys2Proof.Machine
end

