-- ==== Sys2Proof/Machine/Display.lean ====
section
/-! DEFINITION. The display instructions (43_display). -/

namespace Sys2Proof.Machine

open Host (Outcome)

/-- 00E0 (43_display R110). -/
def execCls (s : State) : Outcome State Fault Refusal :=
  .next (State.advance { s with fb := Framebuffer.clear, dirty := true })

/-- DXYN past its memory check: a set bit outside the grid raises FrameBufferOutOfBounds, else the cells
are toggled, VF <- 1 if one of them was on, DIRTY <- 1 (43_display R111). The cells of a sprite are distinct,
so whether one was on is read before any of them changes. -/
def State.drawSprite (s : State) (cells : List (Nat × Nat)) (w : Word) : State :=
  if cells.any offGrid then s.raise .frameBufferOutOfBounds w
  else
    State.advance
      { s.writeV regF (flagByte (cells.any (fun c => s.fb.pixel c.1 c.2))) with
        fb := s.fb.toggleAll cells
        dirty := true }

/-- DXYN (43_display R111, R112): the memory bound is checked before the framebuffer bound
(60_exceptions R138); an edge is rejected, the spec's decision D11 (log 9). -/
def execDrw (x y : Reg) (n : Nibble) (s : State) : Outcome State Fault Refusal :=
  if s.spanFits n.toNat then .next (s.drawSprite (s.drawCells x y n) (encode (.drw x y n)))
  else .next (s.raise .memoryOutOfBounds (encode (.drw x y n)))

end Sys2Proof.Machine
end

