-- ==== Sys2Proof/Machine/Flow.lean ====
section
/-! DEFINITION. Control transfer (40_flow): return, jumps, call and the register-compare skips. -/

namespace Sys2Proof.Machine

open Host (Outcome)

/-- 00EE (40_flow R70). -/
def execRet (s : State) : Outcome State Fault Refusal :=
  if s.sp.val = 0 then .next (s.raise .stackUnderflow (encode .ret))
  else .next (s.pop.jump (s.stackTop + 2))

/-- 1NNN (40_flow R71). -/
def execJp (nnn : Addr) (s : State) : Outcome State Fault Refusal := .next (s.jump (targetOf nnn))

/-- 2NNN (40_flow R72). -/
def execCall (nnn : Addr) (s : State) : Outcome State Fault Refusal :=
  if s.sp.val = Config.stackDepth then .next (s.raise .stackOverflow (encode (.call nnn)))
  else .next (s.push.jump (targetOf nnn))

/-- 3XKK (40_flow R73). -/
def execSeImm (x : Reg) (kk : Byte) (s : State) : Outcome State Fault Refusal :=
  .next (s.skipIf (s.readV x == kk))

/-- 4XKK (40_flow R74). -/
def execSneImm (x : Reg) (kk : Byte) (s : State) : Outcome State Fault Refusal :=
  .next (s.skipIf (s.readV x != kk))

/-- 5XY0 (40_flow R75). -/
def execSeReg (x y : Reg) (s : State) : Outcome State Fault Refusal :=
  .next (s.skipIf (s.readV x == s.readV y))

/-- 9XY0 (40_flow R76). -/
def execSneReg (x y : Reg) (s : State) : Outcome State Fault Refusal :=
  .next (s.skipIf (s.readV x != s.readV y))

/-- BNNN (40_flow R77). -/
def execJpV0 (nnn : Addr) (s : State) : Outcome State Fault Refusal :=
  .next (s.jump (targetPlus nnn (s.readV 0)))

end Sys2Proof.Machine
end

