-- ==== Sys2Proof/Machine/IndexMemory.lean ====
section
/-! DEFINITION. Index register and memory transfer (42_index_memory). The transfers check their highest
address before any byte moves (20_memory R38) and leave I unchanged (R106). -/

namespace Sys2Proof.Machine

open Host (Outcome)

/-- ANNN (42_index_memory R100). -/
def execLdI (nnn : Addr) (s : State) : Outcome State Fault Refusal :=
  .next (State.advance { s with i := nnn })

/-- FX1E (42_index_memory R101): I wraps modulo 0x1000, the spec's decision D6 (log 9). -/
def execAddI (x : Reg) (s : State) : Outcome State Fault Refusal :=
  .next (State.advance
    { s.writeV regF (flagByte (flagIndexOverflow s.i (s.readV x))) with
      i := s.i + (s.readV x).setWidth 12 })

/-- FX29 (42_index_memory R102). -/
def execLdFont (x : Reg) (s : State) : Outcome State Fault Refusal :=
  .next (State.advance { s with i := glyphAddr (s.readV x) })

/-- Stores consecutive bytes from I upward and advances pc, or raises MemoryOutOfBounds before any byte
moves; `w` is the instruction's word (20_memory R38, 42_index_memory R103, R104). -/
def State.storeAtI (s : State) (bytes : List Byte) (w : Word) : State :=
  if s.spanFits bytes.length then
    State.advance { s with mem := s.mem.writeBytes s.i.toNat bytes }
  else s.raise .memoryOutOfBounds w

/-- FX33 (42_index_memory R103). -/
def execLdBcd (x : Reg) (s : State) : Outcome State Fault Refusal :=
  .next (s.storeAtI (decimalDigits (s.readV x)) (encode (.ldBcd x)))

/-- FX55 (42_index_memory R104). -/
def execStoreRegs (x : Reg) (s : State) : Outcome State Fault Refusal :=
  .next (s.storeAtI (s.regsUpTo x) (encode (.storeRegs x)))

/-- FX65 (42_index_memory R105). -/
def execLoadRegs (x : Reg) (s : State) : Outcome State Fault Refusal :=
  if s.spanFits (x.val + 1) then
    .next (State.advance
      { s with v := writeRegsFrom s.v 0 (s.mem.readBytes s.i.toNat (x.val + 1)) })
  else .next (s.raise .memoryOutOfBounds (encode (.loadRegs x)))

end Sys2Proof.Machine
end

