-- ==== Sys2Proof/Machine/KeysTimers.lean ====
section
/-! DEFINITION. Key and timer instructions (44_keys_timers). None of these faults. -/

namespace Sys2Proof.Machine

open Host (Outcome)

/-- EX9E (44_keys_timers R120). -/
def execSkp (x : Reg) (s : State) : Outcome State Fault Refusal :=
  .next (s.skipIf (s.keyDown (s.readV x)))

/-- EXA1 (44_keys_timers R121). -/
def execSknp (x : Reg) (s : State) : Outcome State Fault Refusal :=
  .next (s.skipIf (!s.keyDown (s.readV x)))

/-- FX07 (44_keys_timers R122). -/
def execLdVxDt (x : Reg) (s : State) : Outcome State Fault Refusal :=
  .next (s.writeV x s.dt).advance

/-- FX0A (44_keys_timers R123, the spec's decision D14; log 9): the wait begins and pc is held; the Steps
that follow poll (`State.pollKey`). -/
def execLdVxKey (x : Reg) (s : State) : Outcome State Fault Refusal :=
  .next { s with wait := true, waitX := x }

/-- FX15 (44_keys_timers R124). -/
def execLdDtVx (x : Reg) (s : State) : Outcome State Fault Refusal :=
  .next (State.advance { s with dt := s.readV x })

/-- FX18 (44_keys_timers R125). -/
def execLdStVx (x : Reg) (s : State) : Outcome State Fault Refusal :=
  .next (State.advance { s with st := s.readV x })

end Sys2Proof.Machine
end

