-- ==== Sys2Proof/Machine/Sequence.lean ====
section
/-! DEFINITION. The sequence of one Step (30_encoding R58) and the five host operations (00_scope R4). -/

namespace Sys2Proof.Machine

open Host (Outcome)

/-- Step with its ports already sampled (30_encoding R58): nothing while an error is latched, one poll in
the key wait, else fetch, decode, and run the instruction or report the word. -/
def stepSampled (s : State) : Outcome State Fault Refusal :=
  if s.err.isSome then .next s
  else if s.wait then .next s.pollKey
  else if s.canFetch then
    match decodeWord s.fetchWord with
    | .ok i => exec i s
    | .error _ => .next (s.reportUnknown s.fetchWord)
  else .next (s.raise .memoryOutOfBounds 0)

/-- One host operation (00_scope R4). -/
def hostOp : HostOp → State → Outcome State Fault Refusal
  | .reset rom, s => .next (s.resetWith rom)
  | .step p, s => stepSampled (s.samplePorts p)
  | .timerTick, s => .next s.timerTick
  | .clearDirty, s => .next s.clearDirty
  | .readFrame, s => .next s

/-- The next host operation: the oldest of the queue, or, when the host has queued none, a Step whose ports
are free values (logs 2, 3). -/
def nextOperation (s : State) : Outcome State Fault Refusal :=
  match s.pending with
  | [] => stepSampled s.sampleFree
  | op :: ops => hostOp op { s with pending := ops }

end Sys2Proof.Machine
end

