-- ==== Sys2Proof/Machine/Step.lean ====
section
/-! DEFINITION. One transition of the machine: one host operation. -/

namespace Sys2Proof.Machine

/-- One host operation (00_scope R4): the next queued one, or a Step. -/
def step (s : State) : Host.Outcome State Fault Refusal := nextOperation s

/-- The state in which the very next step is a Step that fetches the word `w`: its bits numbered as
spec/opcode_table.json numbers them, those above `nbits` being 0. -/
def State.withFetchWord (s : State) (nbits w : Nat) : State :=
  s.placeWord (BitVec.ofNat 16 (w % 2 ^ nbits))

end Sys2Proof.Machine
end

