-- ==== Sys2Proof/Safety.lean ====
section
/-! DEFINITION. The terms claims are stated in: a failed run, agreement of states on the spec's state
elements, what an instruction may touch, and the invariants. -/

namespace Sys2Proof.Machine

/-- A run that has met a fatal error: ERR is latched (60_exceptions R151). -/
def State.Failed (s : State) : Prop := s.err ≠ none

/-- `s` and `t` agree on every state element of 10_state R24 but may differ in the model's own fields:
the port sample, the count of free samples, the DIAG record and the schedule (logs 2, 3, 4). -/
def SameElements (s t : State) : Prop :=
  t = { s with ports := t.ports, sampleIx := t.sampleIx, diag := t.diag, pending := t.pending }

/-- Every byte of MEM reads in `t` as in `s`. -/
def SameBytes (s t : State) : Prop := ∀ a : Nat, t.mem.read a = s.mem.read a

/-- Every general register but those listed holds in `t` what it holds in `s`. -/
def SameRegsBut (xs : List Reg) (s t : State) : Prop := ∀ r : Reg, r ∉ xs → t.readV r = s.readV r

/-- Only general registers of `xs` and pc differ: every other register, I, the stack and SP, the timers,
every byte of memory, FB, DIRTY, WAIT, WAITX, ERR and the model's own fields are as before. -/
def OnlyRegs (xs : List Reg) (s t : State) : Prop :=
  t = { s with v := t.v, pc := t.pc } ∧ SameRegsBut xs s t ∧ SameBytes s t

/-- Only pc differs. -/
def OnlyPc (s t : State) : Prop := t = { s with pc := t.pc } ∧ SameBytes s t

/-- Fault entry: only ERR and DIAG differ; pc still holds the faulting instruction's address (60_exceptions
R136). -/
def FatalEntry (k : ErrKind) (w : Word) (s t : State) : Prop :=
  t = { s with err := some k, diag := s.diag ++ [.fatal k s.pc w] }

/-- The instruction writes FB and DIRTY: 00E0 and DXYN (10_state R18, R19). -/
def writesDisplay : Instr → Bool
  | .cls | .drw _ _ _ => true
  | _ => false

/-- The instruction writes MEM: FX33 and FX55 (20_memory R37). -/
def writesMemory : Instr → Bool
  | .ldBcd _ | .storeRegs _ => true
  | _ => false

/-- The instruction moves SP: 2NNN and 00EE (10_state R16). -/
def movesStack : Instr → Bool
  | .call _ | .ret => true
  | _ => false

/-- The instruction may set pc to something other than pc + 2 (40_flow R79), FX0A among them. -/
def transfersControl : Instr → Bool
  | .ret | .jp _ | .call _ | .jpV0 _ | .seImm _ _ | .sneImm _ _ | .seReg _ _ | .sneReg _ _
  | .skp _ | .sknp _ | .ldVxKey _ => true
  | _ => false

/-- The instruction writes VF as a flag: the seven of 10_state R11. -/
def writesFlag : Instr → Bool
  | .addReg _ _ | .subReg _ _ | .shr _ _ | .subnReg _ _ | .shl _ _ | .drw _ _ _ | .addI _ => true
  | _ => false

/-- The registers the instruction names as destination in the Step that executes it: VX for the rows
"write VX" of 10_state R10, V0..VX for FX65 (FX0A writes its register only in the Step that ends the
wait). -/
def destRegs : Instr → List Reg
  | .ldImm x _ | .addImm x _ | .ldReg x _ | .orReg x _ | .andReg x _ | .xorReg x _ | .addReg x _
  | .subReg x _ | .shr x _ | .subnReg x _ | .shl x _ | .rnd x _ | .ldVxDt x => [x]
  | .loadRegs x => (List.finRange 16).filter (fun r => r.val ≤ x.val)
  | _ => []

/-- The canonical form of memory (Ops.lean). -/
def State.MemoryCanonical (s : State) : Prop := s.mem.wf

/-- pc never exceeds 0x10FE; a key wait holds an address a Step fetched from; every return address in use
was one (10_state R15, 20_memory R34, 40_flow R70). -/
def State.FlowBounded (s : State) : Prop :=
  s.pc.toNat ≤ 0x10FE ∧ (s.wait = true → s.pc.toNat ≤ 0x0FFE) ∧
    ∀ k : Fin 16, k.val < s.sp.val → s.stack[k.val].toNat ≤ 0x0FFE

/-- `step s` performs a Step whose ports are sampled, and that Step works on `s₀`: nothing is queued and the
ports are free values, or the host has queued a Step with its sample (logs 2, 3). -/
def StepFrom (s s₀ : State) : Prop :=
  (s.pending = [] ∧ s₀ = s.sampleFree) ∨
    ∃ p ops, s.pending = .step p :: ops ∧ s₀ = { s with ports := p, pending := ops }

/-- The Step working on `s₀` fetches: no error is latched, no key wait holds, and both bytes at pc exist
(30_encoding R58, steps 1 to 3). -/
def Fetches (s₀ : State) : Prop := s₀.err = none ∧ s₀.wait = false ∧ s₀.pc.toNat ≤ 0x0FFE

/-- A completed run: the next Step would fetch a 1NNN that jumps to its own address (40_flow R71). The core
defines no end of a run, so this is the model's definition, as 70_reset_and_hazards R170 asks: DESIGN CHOICE
(log 12), safe. A key wait and a latched error are not completion. -/
def State.Completed (s : State) : Prop :=
  Fetches s ∧ decodeWord s.fetchWord = .ok (.jp (s.pc.setWidth 12))

/-- Bit 7 - k of sprite row r of a DXYN is set and its cell is (x, y): column k of row r lies at
(VX mod 64 + k, VY mod 32 + r) (43_display R111, R112). -/
def SpriteCovers (s : State) (vx vy : Byte) (n : Nibble) (x y : Nat) : Prop :=
  ∃ r k : Nat, r < n.toNat ∧ k < 8 ∧ x = vx.toNat % 64 + k ∧ y = vy.toNat % 32 + r ∧
    (s.mem.read (s.i.toNat + r)).getLsbD (7 - k) = true

end Sys2Proof.Machine
end

