-- ==== Sys2Proof/Certificates/Slice0/Obligations.lean ====
section
/-! DEFINITION. The statements about the model. Each docstring says which rule of spec/ it formalises; where
one rests on a choice of the spec's (92_eei_decisions) or of the model's, it names it. -/

open Sys2Proof Sys2Proof.Machine

/-! ## Encoding -/

/-- 30_encoding R61: encoding is the inverse of decoding, the word carries its row's fixed digits, the bytes
lie high byte first, and the rule's two worked examples. -/
def Obligations.DecodeInvertsEncode : Prop :=
  (∀ i : Instr, i.WellFormed = true →
    decodeWord (encode i) = .ok i ∧ encode i &&& i.row.mask = i.row.pattern ∧
      ∀ rest : List Byte, decode (encodeBytes i ++ rest) = .ok (i, rest)) ∧
  encode (.addReg 3 0xA) = 0x83A4 ∧ encodeBytes (.addReg 3 0xA) = [0x83, 0xA4] ∧
  decodeWord 0x6A05 = .ok (.ldImm 0xA 0x05)

/-- 30_encoding R53, R57: a word that decodes is the word of its instruction, so no bit of it is dropped. -/
def Obligations.EncodeInvertsDecode : Prop :=
  ∀ (w : Word) (i : Instr), decodeWord w = .ok i → encode i = w ∧ i.WellFormed = true

/-- 30_encoding R53: a word selects the first and only row it matches and is that row's instruction, or it
matches none and is rejected by name; the rows do not overlap. -/
def Obligations.DecodeSelectsTheOnlyRow : Prop :=
  ∀ w : Word,
    (∃ i, decodeWord w = .ok i ∧ i.row ∈ opcodeMap ∧ i.row.selects w = true ∧
      ∀ r ∈ opcodeMap, r.selects w = true → r = i.row) ∨
    (decodeWord w = .error (.unrecognized w) ∧ ∀ r ∈ opcodeMap, r.selects w = false)

/-- 30_encoding R54, R56: words written out from the opcode map, one of each family, and four that match no
row. -/
def Obligations.WordsDecodeAsWritten : Prop :=
  decodeWord 0x00EE = .ok .ret ∧ decodeWord 0x220A = .ok (.call 0x20A) ∧
  decodeWord 0x8F15 = .ok (.subReg 0xF 1) ∧ decodeWord 0xF265 = .ok (.loadRegs 2) ∧
  decodeWord 0xD125 = .ok (.drw 1 2 5) ∧ decodeWord 0xE3A1 = .ok (.sknp 3) ∧
  decodeWord 0x0123 = .error (.unrecognized 0x0123) ∧
  decodeWord 0x5121 = .error (.unrecognized 0x5121) ∧
  decodeWord 0x8128 = .error (.unrecognized 0x8128) ∧
  decodeWord 0xF075 = .error (.unrecognized 0xF075)

/-! ## The Step -/

/-- 30_encoding R58, 20_memory R35: a Step that fetches reads the big-endian word at pc and runs the
instruction it decodes to. The sampling of the ports and the schedule around it are the model's (logs 2, 3). -/
def Obligations.StepRunsDecodedInstruction : Prop :=
  ∀ (s s₀ : State) (i : Instr), StepFrom s s₀ → Fetches s₀ →
    decodeWord (s₀.mem.read s₀.pc.toNat ++ s₀.mem.read (s₀.pc.toNat + 1)) = .ok i →
      step s = exec i s₀

/-- 30_encoding section 4: an unrecognized word emits Unknown(pc, w), advances pc by 2 and changes nothing
else. The event's content is the spec's decision D16. -/
def Obligations.UnrecognizedWordIsReportedAndSkipped : Prop :=
  ∀ (s s₀ : State) (w : Word), StepFrom s s₀ → Fetches s₀ →
    w = s₀.mem.read s₀.pc.toNat ++ s₀.mem.read (s₀.pc.toNat + 1) →
    decodeWord w = .error (.unrecognized w) →
      step s = .next { s₀ with pc := s₀.pc + 2, diag := s₀.diag ++ [.unknown s₀.pc w] }

/-- 20_memory section 3: a Step with pc above 0x0FFE raises MemoryOutOfBounds with word 0 and pc in place; pc
does not wrap. The spec's decisions D8 and D17. -/
def Obligations.FetchBeyondMemoryRaises : Prop :=
  ∀ s s₀ : State, StepFrom s s₀ → s₀.err = none → s₀.wait = false → 0x0FFE < s₀.pc.toNat →
    ∃ t, step s = .next t ∧ FatalEntry .memoryOutOfBounds 0 s₀ t

/-- 44_keys_timers, the key wait: a Step that begins with WAIT = 1 fetches nothing; with a key event it writes
the code to V[WAITX], clears WAIT and advances pc by 2, with none it changes nothing. The spec's decision
D14. -/
def Obligations.KeyWaitPollsTheEventPort : Prop :=
  ∀ s s₀ : State, StepFrom s s₀ → s₀.err = none → s₀.wait = true →
    ∃ t, step s = .next t ∧
      (s₀.ports.keyEvent = none → t = s₀) ∧
      (∀ k : Nibble, s₀.ports.keyEvent = some k →
        (t.readV s₀.waitX).toNat = k.toNat ∧ t.wait = false ∧ t.pc = s₀.pc + 2 ∧
        SameRegsBut [s₀.waitX] s₀ t ∧ SameBytes s₀ t ∧
        t = { s₀ with v := t.v, wait := false, pc := t.pc })

/-- 60_exceptions section 12: with an error latched, Step, TimerTick and ReadFrame leave every state element
and DIAG as they are, and ClearDirty clears DIRTY alone. The spec's decision D22. -/
def Obligations.LatchedErrorFreezesTheCore : Prop :=
  ∀ s : State, s.err ≠ none →
    (∀ s₀, StepFrom s s₀ → ∃ t, step s = .next t ∧ SameElements s t ∧ t.diag = s.diag) ∧
    (∀ ops, s.pending = .timerTick :: ops → step s = .next { s with pending := ops }) ∧
    (∀ ops, s.pending = .readFrame :: ops → step s = .next { s with pending := ops }) ∧
    (∀ ops, s.pending = .clearDirty :: ops →
      step s = .next { s with pending := ops, dirty := false })

/-! ## Whole-machine rules -/

/-- 30_encoding R58, 60_exceptions R130, R139: no state stops the machine: every operation, from every state,
answers a next state. That the fatal errors do so is the model's reading (log 1). -/
def Obligations.EveryOperationAnswersANextState : Prop := ∀ s : State, ∃ t, step s = .next t

/-- 20_memory R30, R33: every operation keeps memory in its canonical form: rising addresses below 0x1000, no
entry equal to the reset contents. -/
def Obligations.EveryOperationKeepsMemoryCanonical : Prop :=
  ∀ s t : State, s.MemoryCanonical → step s = .next t → t.MemoryCanonical

/-- 10_state R15, 20_memory section 3, 40_flow R70: pc never exceeds 0x10FE, the key wait holds an address
that was fetched from, and every return address in use is at most 0x0FFE. -/
def Obligations.EveryOperationKeepsFlowBounded : Prop :=
  ∀ s t : State, s.FlowBounded → step s = .next t → t.FlowBounded

/-- The state after reset meets both invariants. -/
def Obligations.ResetMeetsTheInvariants : Prop :=
  State.reset.MemoryCanonical ∧ State.reset.FlowBounded

/-- 00_scope R4: from reset, under every schedule of host operations and for every number of them, the machine
does not stop and both invariants hold. -/
def Obligations.EveryScheduleKeepsTheInvariants : Prop :=
  ∀ (ops : List HostOp) (k : Nat),
    ∃ t : State, core.run k { State.reset with pending := ops } = .next t ∧
      t.MemoryCanonical ∧ t.FlowBounded

/-- 60_exceptions section 2: nothing but Reset clears or replaces a latched error. The latch is the spec's
decision D17. -/
def Obligations.OnlyResetClearsALatchedError : Prop :=
  ∀ (s t : State) (k : ErrKind), s.err = some k → step s = .next t →
    (∀ rom ops, s.pending ≠ .reset rom :: ops) → t.err = some k

/-- 60_exceptions section 2: an instruction that raises changes nothing but ERR and DIAG, with its own word in
the event; any other leaves DIAG and ERR alone. The spec's decision D17. -/
def Obligations.AFaultingInstructionWritesNothing : Prop :=
  ∀ (i : Instr) (s t : State), exec i s = .next t →
    (t.diag = s.diag ∧ t.err = s.err) ∨ ∃ k, FatalEntry k (encode i) s t

/-- 60_exceptions R147, 10_state R19: DIRTY once set stays set until ClearDirty or Reset. -/
def Obligations.OnlyTheHostClearsDirty : Prop :=
  ∀ s t : State, s.dirty = true → step s = .next t →
    (∀ ops, s.pending ≠ .clearDirty :: ops) → (∀ rom ops, s.pending ≠ .reset rom :: ops) →
      t.dirty = true

/-- 10_state R18, R19, 20_memory R46: only 00E0 and DXYN write FB and DIRTY. -/
def Obligations.OnlyDisplayInstructionsWriteTheFrame : Prop :=
  ∀ (i : Instr) (s t : State), exec i s = .next t → writesDisplay i = false →
    t.fb = s.fb ∧ t.dirty = s.dirty

/-- 20_memory R37: only FX33 and FX55 write MEM, and only at I .. I + 2 and I .. I + X. -/
def Obligations.OnlyStoresWriteMemory : Prop :=
  ∀ (i : Instr) (s t : State), exec i s = .next t →
    (writesMemory i = false → SameBytes s t) ∧
    (∀ x, i = .ldBcd x → ∀ a, a < s.i.toNat ∨ s.i.toNat + 2 < a → t.mem.read a = s.mem.read a) ∧
    (∀ x, i = .storeRegs x →
      ∀ a, a < s.i.toNat ∨ s.i.toNat + x.val < a → t.mem.read a = s.mem.read a)

/-- 40_flow R79: every instruction but the jumps, calls, returns and skips, and FX0A, advances pc by 2 when it
does not fault; a skip advances by 2 or 4; FX0A holds pc. -/
def Obligations.PcAdvancesByTwoElsewhere : Prop :=
  ∀ (i : Instr) (s t : State), exec i s = .next t → t.diag = s.diag →
    (transfersControl i = false → t.pc = s.pc + 2) ∧
    (∀ x kk, i = .seImm x kk ∨ i = .sneImm x kk → t.pc = s.pc + 2 ∨ t.pc = s.pc + 4) ∧
    (∀ x y, i = .seReg x y ∨ i = .sneReg x y → t.pc = s.pc + 2 ∨ t.pc = s.pc + 4) ∧
    (∀ x, i = .skp x ∨ i = .sknp x → t.pc = s.pc + 2 ∨ t.pc = s.pc + 4) ∧
    (∀ x, i = .ldVxKey x → t.pc = s.pc)

/-- 10_state R10, R11: an instruction changes only the registers it names as destination and, for the seven that
write a flag, VF; the flag is 0 or 1. -/
def Obligations.RegistersChangeOnlyAsNamed : Prop :=
  ∀ (i : Instr) (s t : State), exec i s = .next t →
    (∀ r : Reg, r ∉ destRegs i → (r = regF → writesFlag i = false) → t.readV r = s.readV r) ∧
    (writesFlag i = true → t.diag = s.diag → t.readV regF = 0 ∨ t.readV regF = 1)

/-- 10_state R16: only 2NNN and 00EE reach SP and the stack. -/
def Obligations.OnlyCallAndReturnReachTheStack : Prop :=
  ∀ (i : Instr) (s t : State), exec i s = .next t → movesStack i = false →
    t.sp = s.sp ∧ t.stack = s.stack

/-- 70_reset_and_hazards R167: DT never increases except by FX15. -/
def Obligations.DelayTimerIncreasesOnlyByFX15 : Prop :=
  ∀ s t : State, step s = .next t →
    t.dt.toNat ≤ s.dt.toNat ∨
      ∃ (s₀ : State) (x : Reg), StepFrom s s₀ ∧ Fetches s₀ ∧
        decodeWord s₀.fetchWord = .ok (.ldDtVx x)

/-- 10_state R23: DIAG is appended to and never read back: two states that differ only in it step alike. -/
def Obligations.DiagIsNeverReadBack : Prop :=
  ∀ (s t : State) (d : List DiagEvent), step s = .next t →
    ∃ new : List DiagEvent, t.diag = s.diag ++ new ∧
      step { s with diag := d } = .next { t with diag := d ++ new }

/-- 20_memory R30: memories in canonical form whose bytes all read alike are equal (the form is the model's,
log 10). -/
def Obligations.EqualReadsEqualMemories : Prop :=
  ∀ m m' : Memory, m.wf → m'.wf → (∀ a, m.read a = m'.read a) → m = m'

/-! ## Control transfer (40_flow) -/

/-- 40_flow R71; a jump to its own address changes nothing at all. -/
def Obligations.JumpGoesToNNN : Prop :=
  ∀ (nnn : Addr) (s : State),
    decodeWord (formatNNN 0x1 nnn) = .ok (.jp nnn) ∧
    (∃ t, exec (.jp nnn) s = .next t ∧ t.pc.toNat = nnn.toNat ∧ OnlyPc s t) ∧
    (s.pc.toNat = nnn.toNat → exec (.jp nnn) s = .next s)

/-- 40_flow R77: the sum is exact and not reduced, and VF is not written. -/
def Obligations.IndexedJumpGoesToNNNPlusV0 : Prop :=
  ∀ (nnn : Addr) (s : State),
    decodeWord (formatNNN 0xB nnn) = .ok (.jpV0 nnn) ∧
    ∃ t, exec (.jpV0 nnn) s = .next t ∧ t.pc.toNat = nnn.toNat + (s.readV 0).toNat ∧ OnlyPc s t

/-- 40_flow, 2NNN: with SP < 16 the call pushes its own address, then counts SP up; with SP = 16 it raises
StackOverflow and changes nothing else. What a raise leaves is the spec's decision D17 (log 9). -/
def Obligations.CallPushesItsOwnAddress : Prop :=
  ∀ (nnn : Addr) (s : State),
    decodeWord (formatNNN 0x2 nnn) = .ok (.call nnn) ∧
    (s.sp.val < 16 → ∃ t, exec (.call nnn) s = .next t ∧ t.pc.toNat = nnn.toNat ∧
      t.sp.val = s.sp.val + 1 ∧
      (∀ k : Fin 16, t.stack[k.val] = if k.val = s.sp.val then s.pc else s.stack[k.val]) ∧
      t = { s with pc := t.pc, sp := t.sp, stack := t.stack } ∧ SameBytes s t) ∧
    (s.sp.val = 16 → ∃ t, exec (.call nnn) s = .next t ∧
      FatalEntry .stackOverflow (formatNNN 0x2 nnn) s t)

/-- 40_flow, 00EE: with SP > 0 the return counts SP down and goes to the popped value + 2, the entry keeping
its value; with SP = 0 it raises StackUnderflow and changes nothing else. The stale entry is the spec's decision
D19, what a raise leaves its decision D17 (log 9). -/
def Obligations.ReturnGoesPastTheCall : Prop :=
  ∀ s : State,
    decodeWord 0x00EE = .ok .ret ∧
    (0 < s.sp.val → ∃ t, exec .ret s = .next t ∧ t.sp.val + 1 = s.sp.val ∧
      (∀ k : Fin 16, k.val + 1 = s.sp.val → t.pc = s.stack[k.val] + 2) ∧
      t = { s with pc := t.pc, sp := t.sp } ∧ SameBytes s t) ∧
    (s.sp.val = 0 → ∃ t, exec .ret s = .next t ∧ FatalEntry .stackUnderflow 0x00EE s t)

/-- 95_test_vectors S5: a call and the return that follows it come back to the instruction after the call with
SP as it was. -/
def Obligations.CallThenReturnComesBack : Prop :=
  ∀ (nnn : Addr) (s : State), s.sp.val < 16 →
    ∃ t u, exec (.call nnn) s = .next t ∧ exec .ret t = .next u ∧
      u.pc = s.pc + 2 ∧ u.sp = s.sp ∧ u.v = s.v ∧ SameBytes s u

/-- 40_flow R73, R74: the two byte skips, each the complement of the other. -/
def Obligations.ByteSkipsCompareVXWithKK : Prop :=
  ∀ (x : Reg) (kk : Byte) (s : State),
    decodeWord (formatXKK 0x3 x kk) = .ok (.seImm x kk) ∧
    decodeWord (formatXKK 0x4 x kk) = .ok (.sneImm x kk) ∧
    (∃ t, exec (.seImm x kk) s = .next t ∧
      t.pc = s.pc + (if s.readV x = kk then 4 else 2) ∧ OnlyPc s t) ∧
    (∃ t, exec (.sneImm x kk) s = .next t ∧
      t.pc = s.pc + (if s.readV x = kk then 2 else 4) ∧ OnlyPc s t)

/-- 40_flow R75, R76: the two register skips; with X = Y the first always skips and the second never; a word
with low nibble other than 0 is unrecognized. -/
def Obligations.RegisterSkipsCompareVXWithVY : Prop :=
  (∀ (x y : Reg) (s : State),
    decodeWord (formatXYN 0x5 x y 0) = .ok (.seReg x y) ∧
    decodeWord (formatXYN 0x9 x y 0) = .ok (.sneReg x y) ∧
    (∃ t, exec (.seReg x y) s = .next t ∧
      t.pc = s.pc + (if s.readV x = s.readV y then 4 else 2) ∧ OnlyPc s t) ∧
    (∃ t, exec (.sneReg x y) s = .next t ∧
      t.pc = s.pc + (if s.readV x = s.readV y then 2 else 4) ∧ OnlyPc s t)) ∧
  (∀ (x y : Reg) (n : Nibble), n ≠ 0 →
    decodeWord (formatXYN 0x5 x y n) = .error (.unrecognized (formatXYN 0x5 x y n)) ∧
    decodeWord (formatXYN 0x9 x y n) = .error (.unrecognized (formatXYN 0x9 x y n)))

/-! ## Register load, arithmetic, logic, shift, random (41_alu) -/

/-- 41_alu R80. -/
def Obligations.LoadByteSetsVX : Prop :=
  ∀ (x : Reg) (kk : Byte) (s : State),
    decodeWord (formatXKK 0x6 x kk) = .ok (.ldImm x kk) ∧
    ∃ t, exec (.ldImm x kk) s = .next t ∧ t.readV x = kk ∧ t.pc = s.pc + 2 ∧ OnlyRegs [x] s t

/-- 41_alu R81: the sum wraps modulo 256 and VF is not touched unless X = 0xF names it. -/
def Obligations.AddByteWrapsWithoutFlag : Prop :=
  ∀ (x : Reg) (kk : Byte) (s : State),
    decodeWord (formatXKK 0x7 x kk) = .ok (.addImm x kk) ∧
    ∃ t, exec (.addImm x kk) s = .next t ∧
      (t.readV x).toNat = ((s.readV x).toNat + kk.toNat) % 256 ∧ t.pc = s.pc + 2 ∧ OnlyRegs [x] s t

/-- 41_alu R82. -/
def Obligations.MoveCopiesVY : Prop :=
  ∀ (x y : Reg) (s : State),
    decodeWord (formatXYN 0x8 x y 0) = .ok (.ldReg x y) ∧
    ∃ t, exec (.ldReg x y) s = .next t ∧ t.readV x = s.readV y ∧ t.pc = s.pc + 2 ∧ OnlyRegs [x] s t

/-- 41_alu R83, R84, R85: OR, AND and exclusive OR bit by bit; VF is not a flag here. -/
def Obligations.LogicalOperationsActBitByBit : Prop :=
  ∀ (x y : Reg) (s : State),
    decodeWord (formatXYN 0x8 x y 1) = .ok (.orReg x y) ∧
    decodeWord (formatXYN 0x8 x y 2) = .ok (.andReg x y) ∧
    decodeWord (formatXYN 0x8 x y 3) = .ok (.xorReg x y) ∧
    (∃ t, exec (.orReg x y) s = .next t ∧ t.pc = s.pc + 2 ∧ OnlyRegs [x] s t ∧
      ∀ k, (t.readV x).getLsbD k = ((s.readV x).getLsbD k || (s.readV y).getLsbD k)) ∧
    (∃ t, exec (.andReg x y) s = .next t ∧ t.pc = s.pc + 2 ∧ OnlyRegs [x] s t ∧
      ∀ k, (t.readV x).getLsbD k = ((s.readV x).getLsbD k && (s.readV y).getLsbD k)) ∧
    (∃ t, exec (.xorReg x y) s = .next t ∧ t.pc = s.pc + 2 ∧ OnlyRegs [x] s t ∧
      ∀ k, (t.readV x).getLsbD k = Bool.xor ((s.readV x).getLsbD k) ((s.readV y).getLsbD k))

/-- 41_alu R93: the five flag-setting instructions with a destination other than VF, with a = VX and b = VY before
the instruction (Y may be VF): VX and VF afterwards. Only VX, VF and pc change. The destination VF has a statement
of its own. -/
def Obligations.FlagSettingInstructionsGiveResultAndFlag : Prop :=
  ∀ (x y : Reg) (s : State) (a b : Nat), x ≠ regF → a = (s.readV x).toNat → b = (s.readV y).toNat →
    (∃ t, exec (.addReg x y) s = .next t ∧ t.pc = s.pc + 2 ∧ OnlyRegs [x, regF] s t ∧
      (t.readV x).toNat = (a + b) % 256 ∧ (t.readV regF).toNat = if 255 < a + b then 1 else 0) ∧
    (∃ t, exec (.subReg x y) s = .next t ∧ t.pc = s.pc + 2 ∧ OnlyRegs [x, regF] s t ∧
      (t.readV x).toNat = (a + 256 - b) % 256 ∧ (t.readV regF).toNat = if b < a then 1 else 0) ∧
    (∃ t, exec (.shr x y) s = .next t ∧ t.pc = s.pc + 2 ∧ OnlyRegs [x, regF] s t ∧
      (t.readV x).toNat = a / 2 ∧ (t.readV regF).toNat = a % 2) ∧
    (∃ t, exec (.subnReg x y) s = .next t ∧ t.pc = s.pc + 2 ∧ OnlyRegs [x, regF] s t ∧
      (t.readV x).toNat = (b + 256 - a) % 256 ∧ (t.readV regF).toNat = if a < b then 1 else 0) ∧
    (∃ t, exec (.shl x y) s = .next t ∧ t.pc = s.pc + 2 ∧ OnlyRegs [x, regF] s t ∧
      (t.readV x).toNat = 2 * a % 256 ∧ (t.readV regF).toNat = a / 128)

/-- 10_state section 2, 41_alu: the same five with VF as the destination: VF ends as the flag of the old values
and the result is lost, the spec's decision D7 (log 9). Only VF and pc change. -/
def Obligations.WithDestinationVFTheFlagRemains : Prop :=
  ∀ (y : Reg) (s : State) (a b : Nat), a = (s.readV regF).toNat → b = (s.readV y).toNat →
    (∃ t, exec (.addReg regF y) s = .next t ∧ t.pc = s.pc + 2 ∧ OnlyRegs [regF] s t ∧
      (t.readV regF).toNat = if 255 < a + b then 1 else 0) ∧
    (∃ t, exec (.subReg regF y) s = .next t ∧ t.pc = s.pc + 2 ∧ OnlyRegs [regF] s t ∧
      (t.readV regF).toNat = if b < a then 1 else 0) ∧
    (∃ t, exec (.shr regF y) s = .next t ∧ t.pc = s.pc + 2 ∧ OnlyRegs [regF] s t ∧
      (t.readV regF).toNat = a % 2) ∧
    (∃ t, exec (.subnReg regF y) s = .next t ∧ t.pc = s.pc + 2 ∧ OnlyRegs [regF] s t ∧
      (t.readV regF).toNat = if a < b then 1 else 0) ∧
    (∃ t, exec (.shl regF y) s = .next t ∧ t.pc = s.pc + 2 ∧ OnlyRegs [regF] s t ∧
      (t.readV regF).toNat = a / 128)

/-- 30_encoding section 3: the Y field of 8XY6 and 8XYE takes any value and has no effect: VX and VF do not depend
on VY. -/
def Obligations.ShiftsIgnoreY : Prop :=
  ∀ (x y : Reg) (s : State),
    decodeWord (formatXYN 0x8 x y 0x6) = .ok (.shr x y) ∧
    decodeWord (formatXYN 0x8 x y 0xE) = .ok (.shl x y) ∧
    exec (.shr x y) s = exec (.shr x 0) s ∧ exec (.shl x y) s = exec (.shl x 0) s ∧
    ∀ z : Reg, z ≠ x → ∀ b : Byte, ∃ t u t' u',
      exec (.shr x z) s = .next t ∧ exec (.shr x z) (s.writeV z b) = .next u ∧
        t.readV x = u.readV x ∧ t.readV regF = u.readV regF ∧
      exec (.shl x z) s = .next t' ∧ exec (.shl x z) (s.writeV z b) = .next u' ∧
        t'.readV x = u'.readV x ∧ t'.readV regF = u'.readV regF

/-- 41_alu, CXKK: VX is the random byte sampled at this Step, masked; it has no bit KK has clear. That the byte is
an unconstrained input port is the spec's decision D15 (log 3). -/
def Obligations.RandomByteIsMasked : Prop :=
  ∀ (x : Reg) (kk : Byte) (s : State),
    decodeWord (formatXKK 0xC x kk) = .ok (.rnd x kk) ∧
    ∃ t, exec (.rnd x kk) s = .next t ∧ t.pc = s.pc + 2 ∧ OnlyRegs [x] s t ∧
      ∀ k, (t.readV x).getLsbD k = (s.ports.rnd.getLsbD k && kk.getLsbD k)

/-! ## Index register and memory transfer (42_index_memory) -/

/-- 42_index_memory R100. -/
def Obligations.LoadIndexSetsI : Prop :=
  ∀ (nnn : Addr) (s : State),
    decodeWord (formatNNN 0xA nnn) = .ok (.ldI nnn) ∧
    ∃ t, exec (.ldI nnn) s = .next t ∧ t.i = nnn ∧ t.pc = s.pc + 2 ∧
      t = { s with i := t.i, pc := t.pc } ∧ SameBytes s t

/-- 42_index_memory, FX1E: I + VX with the overflow reported in VF. That I wraps modulo 0x1000 is the spec's
decision D6, that VF ends as the flag for X = 0xF its decision D7 (log 9). -/
def Obligations.AddToIndexWrapsAndFlags : Prop :=
  ∀ (x : Reg) (s : State) (sum : Nat), sum = s.i.toNat + (s.readV x).toNat →
    decodeWord (formatXKK 0xF x 0x1E) = .ok (.addI x) ∧
    ∃ t, exec (.addI x) s = .next t ∧ t.i.toNat = sum % 0x1000 ∧
      (t.readV regF).toNat = (if 0xFFF < sum then 1 else 0) ∧ t.pc = s.pc + 2 ∧
      SameRegsBut [regF] s t ∧ SameBytes s t ∧ t = { s with v := t.v, i := t.i, pc := t.pc }

/-- 42_index_memory R102: five times the low nibble of VX; no memory is read. -/
def Obligations.FontAddressIsFiveTimesTheLowNibble : Prop :=
  ∀ (x : Reg) (s : State),
    decodeWord (formatXKK 0xF x 0x29) = .ok (.ldFont x) ∧
    ∃ t, exec (.ldFont x) s = .next t ∧ t.i.toNat = 5 * ((s.readV x).toNat % 16) ∧
      t.pc = s.pc + 2 ∧ t = { s with i := t.i, pc := t.pc } ∧ SameBytes s t

/-- 42_index_memory, FX33: the three digits of VX at I, I + 1, I + 2 when I + 2 is at most 0xFFF; else
MemoryOutOfBounds and nothing else changes, the spec's decisions D10 and D17 (log 9). -/
def Obligations.DecimalStoreWritesThreeDigits : Prop :=
  ∀ (x : Reg) (s : State),
    decodeWord (formatXKK 0xF x 0x33) = .ok (.ldBcd x) ∧
    (s.i.toNat + 2 ≤ 0xFFF → ∃ t, exec (.ldBcd x) s = .next t ∧
      (t.mem.read s.i.toNat).toNat = (s.readV x).toNat / 100 ∧
      (t.mem.read (s.i.toNat + 1)).toNat = (s.readV x).toNat / 10 % 10 ∧
      (t.mem.read (s.i.toNat + 2)).toNat = (s.readV x).toNat % 10 ∧
      (∀ a, a < s.i.toNat ∨ s.i.toNat + 2 < a → t.mem.read a = s.mem.read a) ∧
      t.pc = s.pc + 2 ∧ t = { s with mem := t.mem, pc := t.pc }) ∧
    (0xFFF < s.i.toNat + 2 → ∃ t, exec (.ldBcd x) s = .next t ∧
      FatalEntry .memoryOutOfBounds (formatXKK 0xF x 0x33) s t)

/-- 42_index_memory, FX55: V0..VX at I .. I + X when I + X is at most 0xFFF, I and the registers unchanged; else
MemoryOutOfBounds and nothing else changes, the spec's decisions D10 and D17 (log 9). -/
def Obligations.RegisterStoreWritesV0ToVX : Prop :=
  ∀ (x : Reg) (s : State),
    decodeWord (formatXKK 0xF x 0x55) = .ok (.storeRegs x) ∧
    (s.i.toNat + x.val ≤ 0xFFF → ∃ t, exec (.storeRegs x) s = .next t ∧
      (∀ r : Reg, r.val ≤ x.val → t.mem.read (s.i.toNat + r.val) = s.readV r) ∧
      (∀ a, a < s.i.toNat ∨ s.i.toNat + x.val < a → t.mem.read a = s.mem.read a) ∧
      t.pc = s.pc + 2 ∧ t = { s with mem := t.mem, pc := t.pc }) ∧
    (0xFFF < s.i.toNat + x.val → ∃ t, exec (.storeRegs x) s = .next t ∧
      FatalEntry .memoryOutOfBounds (formatXKK 0xF x 0x55) s t)

/-- 42_index_memory, FX65: V0..VX from I .. I + X when I + X is at most 0xFFF, the registers above VX, I and memory
unchanged; else MemoryOutOfBounds and nothing else changes, the spec's decisions D10 and D17 (log 9). -/
def Obligations.RegisterLoadReadsV0ToVX : Prop :=
  ∀ (x : Reg) (s : State),
    decodeWord (formatXKK 0xF x 0x65) = .ok (.loadRegs x) ∧
    (s.i.toNat + x.val ≤ 0xFFF → ∃ t, exec (.loadRegs x) s = .next t ∧
      (∀ r : Reg, t.readV r =
        if r.val ≤ x.val then s.mem.read (s.i.toNat + r.val) else s.readV r) ∧
      t.pc = s.pc + 2 ∧ t = { s with v := t.v, pc := t.pc } ∧ SameBytes s t) ∧
    (0xFFF < s.i.toNat + x.val → ∃ t, exec (.loadRegs x) s = .next t ∧
      FatalEntry .memoryOutOfBounds (formatXKK 0xF x 0x65) s t)

/-- 20_memory R43: the bytes FX55 stores are what the next fetch at their address reads. -/
def Obligations.StoredBytesAreFetched : Prop :=
  ∀ (x : Reg) (s : State), 1 ≤ x.val → s.i.toNat + x.val ≤ 0xFFF →
    ∃ t, exec (.storeRegs x) s = .next t ∧
      State.fetchWord { t with pc := s.i.setWidth 16 } = s.readV 0 ++ s.readV 1

/-! ## Display (43_display) -/

/-- 43_display R110. -/
def Obligations.ClearScreenClearsEveryCell : Prop :=
  ∀ s : State,
    decodeWord 0x00E0 = .ok .cls ∧
    ∃ t, exec .cls s = .next t ∧ (∀ x y, t.fb.pixel x y = false) ∧ t.dirty = true ∧
      t.pc = s.pc + 2 ∧ t = { s with fb := t.fb, dirty := t.dirty, pc := t.pc } ∧ SameBytes s t

/-- 43_display, DXYN: when the sprite lies in memory and no set bit lies outside the grid, each cell under a set
bit is inverted and no other, VF tells whether one of them was on, DIRTY is set. Bit 7 first and the origin
wrap with rejected edges are the spec's decisions D12 and D11 (log 9). -/
def Obligations.DrawInvertsTheSpriteCells : Prop :=
  ∀ (x y : Reg) (n : Nibble) (s : State),
    decodeWord (formatXYN 0xD x y n) = .ok (.drw x y n) ∧
    (s.i.toNat + n.toNat ≤ 0x1000 →
     (∀ a b, SpriteCovers s (s.readV x) (s.readV y) n a b → a < 64 ∧ b < 32) →
      ∃ t, exec (.drw x y n) s = .next t ∧
        (∀ a b, (t.fb.pixel a b = true ↔
          Xor (s.fb.pixel a b = true) (SpriteCovers s (s.readV x) (s.readV y) n a b))) ∧
        (t.readV regF = 1 ∧ (∃ a b, SpriteCovers s (s.readV x) (s.readV y) n a b ∧
            s.fb.pixel a b = true) ∨
          t.readV regF = 0 ∧ ¬∃ a b, SpriteCovers s (s.readV x) (s.readV y) n a b ∧
            s.fb.pixel a b = true) ∧
        t.dirty = true ∧ t.pc = s.pc + 2 ∧ SameRegsBut [regF] s t ∧ SameBytes s t ∧
        t = { s with v := t.v, fb := t.fb, dirty := t.dirty, pc := t.pc })

/-- 60_exceptions section 3, 43_display: DXYN raises MemoryOutOfBounds when the sprite's last byte lies beyond
0xFFF, else FrameBufferOutOfBounds when a set bit lies outside the grid; the memory bound comes first and
nothing is written. The spec's decisions D11, D12 and D18. -/
def Obligations.DrawRejectsWhatLiesOutside : Prop :=
  ∀ (x y : Reg) (n : Nibble) (s : State),
    (0x1000 < s.i.toNat + n.toNat → ∃ t, exec (.drw x y n) s = .next t ∧
      FatalEntry .memoryOutOfBounds (formatXYN 0xD x y n) s t) ∧
    (s.i.toNat + n.toNat ≤ 0x1000 →
      (∃ a b, SpriteCovers s (s.readV x) (s.readV y) n a b ∧ (64 ≤ a ∨ 32 ≤ b)) →
        ∃ t, exec (.drw x y n) s = .next t ∧
          FatalEntry .frameBufferOutOfBounds (formatXYN 0xD x y n) s t)

/-- 95_test_vectors S6: drawing the same sprite twice at the same coordinates gives the framebuffer back, and a
first draw with no collision is followed by one exactly when the sprite has a set bit. -/
def Obligations.DrawingTwiceRestoresTheFrame : Prop :=
  ∀ (x y : Reg) (n : Nibble) (s t : State), exec (.drw x y n) s = .next t → t.diag = s.diag →
    t.readV x = s.readV x → t.readV y = s.readV y →
      ∃ u, exec (.drw x y n) t = .next u ∧ u.fb = s.fb ∧ u.diag = s.diag ∧
        (t.readV regF = 0 → (u.readV regF = 1 ↔ s.drawCells x y n ≠ []))

/-! ## Keys and timers (44_keys_timers) -/

/-- 44_keys_timers, EX9E and EXA1: the line selected by the low nibble of VX in the sampled KEYS, each the
complement of the other. The nibble is the spec's decision D13 (log 9). -/
def Obligations.KeySkipsTestTheSampledLine : Prop :=
  ∀ (x : Reg) (s : State) (down : Bool),
    down = s.ports.keys.getLsbD ((s.readV x).toNat % 16) →
    decodeWord (formatXKK 0xE x 0x9E) = .ok (.skp x) ∧
    decodeWord (formatXKK 0xE x 0xA1) = .ok (.sknp x) ∧
    (∃ t, exec (.skp x) s = .next t ∧
      t.pc = s.pc + (if down then 4 else 2) ∧ OnlyPc s t) ∧
    (∃ t, exec (.sknp x) s = .next t ∧
      t.pc = s.pc + (if down then 2 else 4) ∧ OnlyPc s t)

/-- 44_keys_timers R122. -/
def Obligations.ReadDelayTimerCopiesDT : Prop :=
  ∀ (x : Reg) (s : State),
    decodeWord (formatXKK 0xF x 0x07) = .ok (.ldVxDt x) ∧
    ∃ t, exec (.ldVxDt x) s = .next t ∧ t.readV x = s.dt ∧ t.pc = s.pc + 2 ∧ OnlyRegs [x] s t

/-- 44_keys_timers, FX0A: the Step that executes it sets WAIT and WAITX, holds pc and reads no port. The spec's
decision D14 (log 9). -/
def Obligations.KeyWaitBeginsAndHoldsPc : Prop :=
  ∀ (x : Reg) (s : State),
    decodeWord (formatXKK 0xF x 0x0A) = .ok (.ldVxKey x) ∧
    ∃ t, exec (.ldVxKey x) s = .next t ∧ t.wait = true ∧ t.waitX = x ∧ t.pc = s.pc ∧
      t = { s with wait := t.wait, waitX := t.waitX } ∧ SameBytes s t

/-- 44_keys_timers R124, R125: DT or ST becomes VX; SND follows ST. -/
def Obligations.TimersAreSetFromVX : Prop :=
  ∀ (x : Reg) (s : State),
    decodeWord (formatXKK 0xF x 0x15) = .ok (.ldDtVx x) ∧
    decodeWord (formatXKK 0xF x 0x18) = .ok (.ldStVx x) ∧
    (∃ t, exec (.ldDtVx x) s = .next t ∧ t.dt = s.readV x ∧ t.pc = s.pc + 2 ∧
      t = { s with dt := t.dt, pc := t.pc } ∧ SameBytes s t) ∧
    (∃ t, exec (.ldStVx x) s = .next t ∧ t.st = s.readV x ∧ t.pc = s.pc + 2 ∧
      (t.snd = true ↔ s.readV x ≠ 0) ∧ t = { s with st := t.st, pc := t.pc } ∧ SameBytes s t)

/-! ## Host operations -/

/-- 60_exceptions section 7: a TimerTick decrements each nonzero timer by exactly 1, never below 0, also in the key
wait, and nothing else; with an error latched it does nothing, the spec's decision D22 (log 9). -/
def Obligations.TimerTickCountsDown : Prop :=
  ∀ (s : State) (ops : List HostOp), s.pending = .timerTick :: ops →
    ∃ t, step s = .next t ∧ t = { s with dt := t.dt, st := t.st, pending := ops } ∧
      (s.err = none → t.dt.toNat = s.dt.toNat - 1 ∧ t.st.toNat = s.st.toNat - 1) ∧
      (s.err ≠ none → t.dt = s.dt ∧ t.st = s.st)

/-- 60_exceptions section 8: ReadFrame shows the 64 x 32 cells and DIRTY and changes nothing; ClearDirty clears
DIRTY and nothing else; both in every state, the spec's decision D22. -/
def Obligations.ReadFrameShowsAndClearDirtyClears : Prop :=
  ∀ (s : State) (ops : List HostOp),
    (s.readFrame.width = 64 ∧ s.readFrame.height = 32 ∧ s.readFrame.dirty = s.dirty ∧
      ∀ x y, s.readFrame.pixels.pixel x y = s.fb.pixel x y) ∧
    (s.pending = .readFrame :: ops → step s = .next { s with pending := ops }) ∧
    (s.pending = .clearDirty :: ops → step s = .next { s with pending := ops, dirty := false })

/-- 70_reset_and_hazards section 1, 20_memory section 8: Reset with a ROM of at most 3584 bytes puts its bytes at
0x200 upward and every other byte and element at its reset value, whatever the state before. The reset values
and the repeatable Reset are the spec's decisions D2, D3, D4, D5, D17, D21, D23 (logs 6, 7, 9); that DIAG keeps
the events already emitted is the model's choice (log 4). -/
def Obligations.ResetLoadsTheRom : Prop :=
  ∀ (s : State) (rom : List Byte) (ops : List HostOp), rom.length ≤ 3584 →
    s.pending = .reset rom :: ops →
      ∃ t, step s = .next t ∧ SameElements { State.reset with mem := t.mem } t ∧ t.diag = s.diag ∧
        (∀ (k : Nat) (h : k < rom.length), t.mem.read (0x200 + k) = rom[k]) ∧
        ∀ a, a < 0x200 ∨ 0x200 + rom.length ≤ a → t.mem.read a = State.reset.mem.read a

/-- 10_state section 11: Reset with a longer ROM copies no byte, latches LoadError and reports it. The latch and
the repeatable Reset are the spec's decisions D17 and D21 (log 9), the other reset values its decisions D2, D3, D4,
D5 and D23 (logs 6, 7); that DIAG keeps the events already emitted is the model's choice (log 4). -/
def Obligations.ResetRefusesALongRom : Prop :=
  ∀ (s : State) (rom : List Byte) (ops : List HostOp), 3584 < rom.length →
    s.pending = .reset rom :: ops →
      ∃ t, step s = .next t ∧ SameElements { State.reset with err := some .loadError } t ∧
        t.diag = s.diag ++ [.fatal .loadError 0x0200 0x0000]

/-- 10_state section 11: what reset leaves in every element, with all 80 font bytes as 20_memory section 2 lists
them, two glyphs a line. The spec's decisions D2, D3, D4, D17 and D23 (log 7), and D5 for the font (log 6); the
framebuffer is the source's own. -/
def Obligations.ResetLeavesTheListedValues : Prop :=
  (∀ r : Reg, State.reset.readV r = 0) ∧ State.reset.i = 0 ∧ State.reset.pc = 0x0200 ∧
  State.reset.sp.val = 0 ∧ (∀ k : Fin 16, State.reset.stack[k.val] = 0) ∧
  State.reset.dt = 0 ∧ State.reset.st = 0 ∧ (∀ x y, State.reset.fb.pixel x y = false) ∧
  State.reset.dirty = false ∧ State.reset.wait = false ∧ State.reset.waitX = 0 ∧
  State.reset.err = none ∧ State.reset.snd = false ∧
  (∀ a, 80 ≤ a → State.reset.mem.read a = 0) ∧
  State.reset.mem.readBytes 0 80 =
    [0xF0, 0x90, 0x90, 0x90, 0xF0] ++ [0x20, 0x60, 0x20, 0x20, 0x70] ++
    [0xF0, 0x10, 0xF0, 0x80, 0xF0] ++ [0xF0, 0x10, 0xF0, 0x10, 0xF0] ++
    [0x90, 0x90, 0xF0, 0x10, 0x10] ++ [0xF0, 0x80, 0xF0, 0x10, 0xF0] ++
    [0xF0, 0x80, 0xF0, 0x90, 0xF0] ++ [0xF0, 0x10, 0x20, 0x40, 0x40] ++
    [0xF0, 0x90, 0xF0, 0x90, 0xF0] ++ [0xF0, 0x90, 0xF0, 0x10, 0xF0] ++
    [0xF0, 0x90, 0xF0, 0x90, 0x90] ++ [0xE0, 0x90, 0xE0, 0x90, 0xE0] ++
    [0xF0, 0x80, 0x80, 0x80, 0xF0] ++ [0xE0, 0x90, 0x90, 0x90, 0xE0] ++
    [0xF0, 0x80, 0xF0, 0x80, 0xF0] ++ [0xF0, 0x80, 0xF0, 0x80, 0x80]
end

