-- ==== Sys2Proof/Laws/Encoding.lean ====
section
/-! SUPPORT. The fields of each format (30_encoding R51, R52), its fixed bits, and that every instruction is
well formed. -/

namespace Sys2Proof

theorem fields_fit_iff (f : Fields) :
    f.fit = true ↔ f.x < 16 ∧ f.y < 16 ∧ f.n < 16 ∧ f.kk < 256 ∧ f.nnn < 4096 := by
  simp [Fields.fit, and_assoc]

/-- The operand types have the widths of their fields (30_encoding R55). -/
theorem instr_wellFormed (i : Instr) : i.WellFormed = true := by
  rw [Instr.WellFormed, fields_fit_iff]
  cases i <;> simp only [Instr.fields] <;> omega

/-- A register number as the four bits of its field. -/
def regBits (x : Reg) : Nibble := BitVec.ofFin (w := 4) x

@[simp] theorem regBits_toFin (x : Reg) : (regBits x).toFin = x := rfl

@[simp] theorem regBits_zero : regBits 0 = 0#4 := rfl

section
variable (op n : Nibble) (x y : Reg) (kk : Byte) (nnn : Addr) (i : Nat)

/-! ## The bits of each format -/

theorem formatNNN_bit : (formatNNN op nnn).getLsbD i =
    if i < 12 then nnn.getLsbD i else op.getLsbD (i - 12) :=
  (BitVec.getLsbD_append (x := op) (y := nnn) (i := i)).trans (by split_ifs <;> rfl)

theorem formatXKK_bit : (formatXKK op x kk).getLsbD i =
    if i < 8 then kk.getLsbD i
    else if i - 8 < 4 then (regBits x).getLsbD (i - 8) else op.getLsbD (i - 8 - 4) := by
  refine (BitVec.getLsbD_append (x := op ++ regBits x) (y := kk) (i := i)).trans ?_
  rw [BitVec.getLsbD_append]

theorem formatXYN_bit : (formatXYN op x y n).getLsbD i =
    if i < 4 then n.getLsbD i
    else if i - 4 < 4 then (regBits y).getLsbD (i - 4)
    else if i - 4 - 4 < 4 then (regBits x).getLsbD (i - 4 - 4)
    else op.getLsbD (i - 4 - 4 - 4) := by
  refine (BitVec.getLsbD_append (x := op ++ regBits x ++ regBits y) (y := n) (i := i)).trans ?_
  rw [BitVec.getLsbD_append, BitVec.getLsbD_append]

/-! ## The fields of each format -/

@[simp] theorem fieldOP_formatNNN : fieldOP (formatNNN op nnn) = op := by
  refine BitVec.eq_of_getLsbD_eq fun i hi => ?_
  rw [fieldOP, BitVec.getLsbD_extractLsb', formatNNN_bit]
  interval_cases i <;> simp

@[simp] theorem fieldNNN_formatNNN : fieldNNN (formatNNN op nnn) = nnn := by
  refine BitVec.eq_of_getLsbD_eq fun i hi => ?_
  rw [fieldNNN, BitVec.getLsbD_extractLsb', formatNNN_bit]
  interval_cases i <;> simp

@[simp] theorem fieldOP_formatXKK : fieldOP (formatXKK op x kk) = op := by
  refine BitVec.eq_of_getLsbD_eq fun i hi => ?_
  rw [fieldOP, BitVec.getLsbD_extractLsb', formatXKK_bit]
  interval_cases i <;> simp

@[simp] theorem fieldX_formatXKK : fieldX (formatXKK op x kk) = x := by
  refine (congrArg BitVec.toFin ?_ : _ = (regBits x).toFin)
  refine BitVec.eq_of_getLsbD_eq fun i hi => ?_
  rw [BitVec.getLsbD_extractLsb', formatXKK_bit]
  interval_cases i <;> rfl

@[simp] theorem fieldKK_formatXKK : fieldKK (formatXKK op x kk) = kk := by
  refine BitVec.eq_of_getLsbD_eq fun i hi => ?_
  rw [fieldKK, BitVec.getLsbD_extractLsb', formatXKK_bit]
  interval_cases i <;> simp

@[simp] theorem fieldOP_formatXYN : fieldOP (formatXYN op x y n) = op := by
  refine BitVec.eq_of_getLsbD_eq fun i hi => ?_
  rw [fieldOP, BitVec.getLsbD_extractLsb', formatXYN_bit]
  interval_cases i <;> simp

@[simp] theorem fieldX_formatXYN : fieldX (formatXYN op x y n) = x := by
  refine (congrArg BitVec.toFin ?_ : _ = (regBits x).toFin)
  refine BitVec.eq_of_getLsbD_eq fun i hi => ?_
  rw [BitVec.getLsbD_extractLsb', formatXYN_bit]
  interval_cases i <;> rfl

@[simp] theorem fieldY_formatXYN : fieldY (formatXYN op x y n) = y := by
  refine (congrArg BitVec.toFin ?_ : _ = (regBits y).toFin)
  refine BitVec.eq_of_getLsbD_eq fun i hi => ?_
  rw [BitVec.getLsbD_extractLsb', formatXYN_bit]
  interval_cases i <;> rfl

@[simp] theorem fieldN_formatXYN : fieldN (formatXYN op x y n) = n := by
  refine BitVec.eq_of_getLsbD_eq fun i hi => ?_
  rw [fieldN, BitVec.getLsbD_extractLsb', formatXYN_bit]
  interval_cases i <;> simp

/-! ## The bits of a format that are no operand (30_encoding R52) -/

theorem formatNNN_masked : formatNNN op nnn &&& 0xF000 = formatNNN op 0 := by
  refine BitVec.eq_of_getLsbD_eq fun i hi => ?_
  rw [BitVec.getLsbD_and, formatNNN_bit, formatNNN_bit]
  interval_cases i <;> simp

theorem formatXKK_masked_op : formatXKK op x kk &&& 0xF000 = formatXKK op 0 0 := by
  refine BitVec.eq_of_getLsbD_eq fun i hi => ?_
  rw [BitVec.getLsbD_and, formatXKK_bit, formatXKK_bit]
  interval_cases i <;> simp

theorem formatXKK_masked : formatXKK op x kk &&& 0xF0FF = formatXKK op 0 kk := by
  refine BitVec.eq_of_getLsbD_eq fun i hi => ?_
  rw [BitVec.getLsbD_and, formatXKK_bit, formatXKK_bit]
  interval_cases i <;> simp

theorem formatXYN_masked_op : formatXYN op x y n &&& 0xF000 = formatXYN op 0 0 0 := by
  refine BitVec.eq_of_getLsbD_eq fun i hi => ?_
  rw [BitVec.getLsbD_and, formatXYN_bit, formatXYN_bit]
  interval_cases i <;> simp

theorem formatXYN_masked : formatXYN op x y n &&& 0xF00F = formatXYN op 0 0 n := by
  refine BitVec.eq_of_getLsbD_eq fun i hi => ?_
  rw [BitVec.getLsbD_and, formatXYN_bit, formatXYN_bit]
  interval_cases i <;> simp

end

/-! ## A word is the concatenation of its fields (30_encoding R51) -/

theorem word_eq_formatNNN (w : Word) : w = formatNNN (fieldOP w) (fieldNNN w) := by
  refine BitVec.eq_of_getLsbD_eq fun i hi => ?_
  rw [formatNNN_bit, fieldOP, fieldNNN, BitVec.getLsbD_extractLsb', BitVec.getLsbD_extractLsb']
  interval_cases i <;> simp

theorem word_eq_formatXKK (w : Word) : w = formatXKK (fieldOP w) (fieldX w) (fieldKK w) := by
  refine BitVec.eq_of_getLsbD_eq fun i hi => ?_
  have hx : regBits (fieldX w) = w.extractLsb' 8 4 := rfl
  rw [formatXKK_bit, hx, fieldOP, fieldKK, BitVec.getLsbD_extractLsb',
    BitVec.getLsbD_extractLsb', BitVec.getLsbD_extractLsb']
  interval_cases i <;> simp

theorem word_eq_formatXYN (w : Word) :
    w = formatXYN (fieldOP w) (fieldX w) (fieldY w) (fieldN w) := by
  refine BitVec.eq_of_getLsbD_eq fun i hi => ?_
  have hx : regBits (fieldX w) = w.extractLsb' 8 4 := rfl
  have hy : regBits (fieldY w) = w.extractLsb' 4 4 := rfl
  rw [formatXYN_bit, hx, hy, fieldOP, fieldN, BitVec.getLsbD_extractLsb',
    BitVec.getLsbD_extractLsb', BitVec.getLsbD_extractLsb', BitVec.getLsbD_extractLsb']
  interval_cases i <;> simp

/-- The two bytes of a word, joined again (20_memory R35). -/
theorem wordOfBytes_bytesOfWord (w : Word) :
    wordOfBytes (w.extractLsb' 8 8) (w.extractLsb' 0 8) = w := by
  refine BitVec.eq_of_getLsbD_eq fun i hi => ?_
  refine (BitVec.getLsbD_append (x := w.extractLsb' 8 8) (y := w.extractLsb' 0 8) (i := i)).trans ?_
  rw [BitVec.getLsbD_extractLsb', BitVec.getLsbD_extractLsb']
  interval_cases i <;> simp

end Sys2Proof
end

