-- ==== Sys2Proof/Laws/Decode.lean ====
section
/-! SUPPORT. One lemma per primary opcode: what decoding answers for a word with that high nibble (30_encoding
R53), and one per secondary opcode. -/

namespace Sys2Proof

section
variable {w : Word}

theorem decodeWord_op0 (h : fieldOP w = 0x0) : decodeWord w =
    if w = 0x00E0 then .ok .cls else if w = 0x00EE then .ok .ret else .error (.unrecognized w) := by
  unfold decodeWord
  rw [h]
  rfl

theorem decodeWord_op1 (h : fieldOP w = 0x1) : decodeWord w =
    .ok (.jp (fieldNNN w)) := by
  unfold decodeWord
  rw [h]
  rfl

theorem decodeWord_op2 (h : fieldOP w = 0x2) : decodeWord w =
    .ok (.call (fieldNNN w)) := by
  unfold decodeWord
  rw [h]
  rfl

theorem decodeWord_op3 (h : fieldOP w = 0x3) : decodeWord w =
    .ok (.seImm (fieldX w) (fieldKK w)) := by
  unfold decodeWord
  rw [h]
  rfl

theorem decodeWord_op4 (h : fieldOP w = 0x4) : decodeWord w =
    .ok (.sneImm (fieldX w) (fieldKK w)) := by
  unfold decodeWord
  rw [h]
  rfl

theorem decodeWord_op5 (h : fieldOP w = 0x5) : decodeWord w =
    if fieldN w = 0 then .ok (.seReg (fieldX w) (fieldY w)) else .error (.unrecognized w) := by
  unfold decodeWord
  rw [h]
  rfl

theorem decodeWord_op6 (h : fieldOP w = 0x6) : decodeWord w =
    .ok (.ldImm (fieldX w) (fieldKK w)) := by
  unfold decodeWord
  rw [h]
  rfl

theorem decodeWord_op7 (h : fieldOP w = 0x7) : decodeWord w =
    .ok (.addImm (fieldX w) (fieldKK w)) := by
  unfold decodeWord
  rw [h]
  rfl

theorem decodeWord_op8 (h : fieldOP w = 0x8) : decodeWord w =
    decode8 w := by
  unfold decodeWord
  rw [h]
  rfl

theorem decodeWord_op9 (h : fieldOP w = 0x9) : decodeWord w =
    if fieldN w = 0 then .ok (.sneReg (fieldX w) (fieldY w)) else .error (.unrecognized w) := by
  unfold decodeWord
  rw [h]
  rfl

theorem decodeWord_opA (h : fieldOP w = 0xA) : decodeWord w =
    .ok (.ldI (fieldNNN w)) := by
  unfold decodeWord
  rw [h]
  rfl

theorem decodeWord_opB (h : fieldOP w = 0xB) : decodeWord w =
    .ok (.jpV0 (fieldNNN w)) := by
  unfold decodeWord
  rw [h]
  rfl

theorem decodeWord_opC (h : fieldOP w = 0xC) : decodeWord w =
    .ok (.rnd (fieldX w) (fieldKK w)) := by
  unfold decodeWord
  rw [h]
  rfl

theorem decodeWord_opD (h : fieldOP w = 0xD) : decodeWord w =
    .ok (.drw (fieldX w) (fieldY w) (fieldN w)) := by
  unfold decodeWord
  rw [h]
  rfl

theorem decodeWord_opE (h : fieldOP w = 0xE) : decodeWord w =
    decodeE w := by
  unfold decodeWord
  rw [h]
  rfl

theorem decodeWord_opF (h : fieldOP w = 0xF) : decodeWord w =
    decodeF w := by
  unfold decodeWord
  rw [h]
  rfl

theorem decode8_n0 (h : fieldN w = 0x0) : decode8 w = .ok (.ldReg (fieldX w) (fieldY w)) := by
  unfold decode8
  rw [h]
  rfl

theorem decode8_n1 (h : fieldN w = 0x1) : decode8 w = .ok (.orReg (fieldX w) (fieldY w)) := by
  unfold decode8
  rw [h]
  rfl

theorem decode8_n2 (h : fieldN w = 0x2) : decode8 w = .ok (.andReg (fieldX w) (fieldY w)) := by
  unfold decode8
  rw [h]
  rfl

theorem decode8_n3 (h : fieldN w = 0x3) : decode8 w = .ok (.xorReg (fieldX w) (fieldY w)) := by
  unfold decode8
  rw [h]
  rfl

theorem decode8_n4 (h : fieldN w = 0x4) : decode8 w = .ok (.addReg (fieldX w) (fieldY w)) := by
  unfold decode8
  rw [h]
  rfl

theorem decode8_n5 (h : fieldN w = 0x5) : decode8 w = .ok (.subReg (fieldX w) (fieldY w)) := by
  unfold decode8
  rw [h]
  rfl

theorem decode8_n6 (h : fieldN w = 0x6) : decode8 w = .ok (.shr (fieldX w) (fieldY w)) := by
  unfold decode8
  rw [h]
  rfl

theorem decode8_n7 (h : fieldN w = 0x7) : decode8 w = .ok (.subnReg (fieldX w) (fieldY w)) := by
  unfold decode8
  rw [h]
  rfl

theorem decode8_nE (h : fieldN w = 0xE) : decode8 w = .ok (.shl (fieldX w) (fieldY w)) := by
  unfold decode8
  rw [h]
  rfl

theorem decodeE_kk9E (h : fieldKK w = 0x9E) : decodeE w = .ok (.skp (fieldX w)) := by
  unfold decodeE
  rw [h]
  rfl

theorem decodeE_kkA1 (h : fieldKK w = 0xA1) : decodeE w = .ok (.sknp (fieldX w)) := by
  unfold decodeE
  rw [h]
  rfl

theorem decodeF_kk07 (h : fieldKK w = 0x07) : decodeF w = .ok (.ldVxDt (fieldX w)) := by
  unfold decodeF
  rw [h]
  rfl

theorem decodeF_kk0A (h : fieldKK w = 0x0A) : decodeF w = .ok (.ldVxKey (fieldX w)) := by
  unfold decodeF
  rw [h]
  rfl

theorem decodeF_kk15 (h : fieldKK w = 0x15) : decodeF w = .ok (.ldDtVx (fieldX w)) := by
  unfold decodeF
  rw [h]
  rfl

theorem decodeF_kk18 (h : fieldKK w = 0x18) : decodeF w = .ok (.ldStVx (fieldX w)) := by
  unfold decodeF
  rw [h]
  rfl

theorem decodeF_kk1E (h : fieldKK w = 0x1E) : decodeF w = .ok (.addI (fieldX w)) := by
  unfold decodeF
  rw [h]
  rfl

theorem decodeF_kk29 (h : fieldKK w = 0x29) : decodeF w = .ok (.ldFont (fieldX w)) := by
  unfold decodeF
  rw [h]
  rfl

theorem decodeF_kk33 (h : fieldKK w = 0x33) : decodeF w = .ok (.ldBcd (fieldX w)) := by
  unfold decodeF
  rw [h]
  rfl

theorem decodeF_kk55 (h : fieldKK w = 0x55) : decodeF w = .ok (.storeRegs (fieldX w)) := by
  unfold decodeF
  rw [h]
  rfl

theorem decodeF_kk65 (h : fieldKK w = 0x65) : decodeF w = .ok (.loadRegs (fieldX w)) := by
  unfold decodeF
  rw [h]
  rfl

end

end Sys2Proof
end

