-- ==== Sys2Proof/Laws/Memory.lean ====
section
/-! SUPPORT. The laws of memory: what a read gives after each operation, and that every operation keeps the
canonical form. -/

namespace Sys2Proof.Machine

theorem memory_read_nil (a : Nat) : Memory.read [] a = Memory.initial a := rfl

theorem memory_read_cons (c : Host.Cell) (m : Memory) (a : Nat) :
    Memory.read (c :: m) a = if a = c.1 then c.2 else Memory.read m a := by
  obtain ⟨k, b⟩ := c
  by_cases h : a = k
  · simp [Memory.read, h]
  · simp [Memory.read, List.lookup_cons, h, beq_eq_false_iff_ne.mpr h]

theorem memory_read_erase (m : Memory) (a a' : Nat) :
    (m.erase a).read a' = if a' = a then Memory.initial a' else m.read a' := by
  induction m with
  | nil => simp [Memory.erase, memory_read_nil]
  | cons c m ih =>
    by_cases hc : c.1 = a
    · have : Memory.erase (c :: m) a = Memory.erase m a := by simp [Memory.erase, hc]
      rw [this, ih, memory_read_cons]
      split_ifs with h1 h2 <;> simp_all
    · have : Memory.erase (c :: m) a = c :: Memory.erase m a := by simp [Memory.erase, hc]
      rw [this, memory_read_cons, memory_read_cons, ih]
      split_ifs with h1 h2 <;> simp_all

theorem memory_read_insert (m : Memory) (a a' : Nat) (b : Byte) (hm : ∀ c ∈ m, c.1 ≠ a) :
    (Memory.insert a b m).read a' = if a' = a then b else m.read a' := by
  induction m with
  | nil => simp [Memory.insert, memory_read_cons]
  | cons c m ih =>
    have hc : c.1 ≠ a := hm c (by simp)
    unfold Memory.insert
    by_cases h1 : a < c.1
    · rw [if_pos h1, memory_read_cons]
    · rw [if_neg h1, memory_read_cons, memory_read_cons, ih fun d hd => hm d (by simp [hd])]
      by_cases h2 : a' = c.1
      · rw [if_pos h2, if_pos h2, if_neg (h2 ▸ hc)]
      · rw [if_neg h2, if_neg h2]

theorem memory_not_mem_erase (m : Memory) (a : Nat) : ∀ c ∈ m.erase a, c.1 ≠ a := by
  intro c hc
  simpa [Memory.erase] using (List.mem_filter.mp hc).2

/-- A byte written is what that address reads as; every other address reads as before (20_memory R33, R41). -/
theorem memory_read_write (m : Memory) (a a' : Nat) (b : Byte) :
    (m.write a b).read a' = if a' = a ∧ a < Config.memSize then b else m.read a' := by
  unfold Memory.write
  by_cases ha : a < Config.memSize
  · simp only [ha, if_true, and_true]
    split_ifs with hb h h
    · rw [memory_read_erase, if_pos h, hb, h]
    · rw [memory_read_erase, if_neg h]
    · rw [memory_read_insert _ _ _ _ (memory_not_mem_erase m a), if_pos h]
    · rw [memory_read_insert _ _ _ _ (memory_not_mem_erase m a), if_neg h, memory_read_erase, if_neg h]
  · simp [ha]

/-- What consecutive writes leave: the k-th byte at a + k, every other address as before. -/
theorem memory_read_writeBytes (bs : List Byte) (m : Memory) (a a' : Nat)
    (hfit : a + bs.length ≤ Config.memSize) :
    (m.writeBytes a bs).read a' =
      if h : a ≤ a' ∧ a' - a < bs.length then bs[a' - a] else m.read a' := by
  induction bs generalizing m a with
  | nil => simp [Memory.writeBytes]
  | cons b bs ih =>
    simp only [List.length_cons] at hfit
    rw [Memory.writeBytes, ih (m.write a b) (a + 1) (by omega), memory_read_write]
    by_cases h0 : a' = a
    · subst h0
      simp
      omega
    · by_cases h1 : a + 1 ≤ a' ∧ a' - (a + 1) < bs.length
      · have h2 : a ≤ a' ∧ a' - a < (b :: bs).length := by simp only [List.length_cons]; omega
        rw [dif_pos h1, dif_pos h2]
        have h3 : a' - a = (a' - (a + 1)) + 1 := by omega
        simp only [h3, List.getElem_cons_succ]
      · have h2 : ¬(a ≤ a' ∧ a' - a < (b :: bs).length) := by simp only [List.length_cons]; omega
        rw [dif_neg h1, dif_neg h2]
        simp [h0]

@[simp] theorem memory_readBytes_length (m : Memory) (a n : Nat) : (m.readBytes a n).length = n := by
  induction n generalizing a with
  | zero => rfl
  | succ n ih => simp [Memory.readBytes, ih]

theorem memory_readBytes_getElem (m : Memory) (a n k : Nat) (hk : k < (m.readBytes a n).length) :
    (m.readBytes a n)[k] = m.read (a + k) := by
  induction n generalizing a k with
  | zero => simp [Memory.readBytes] at hk
  | succ n ih =>
    cases k with
    | zero => rfl
    | succ k =>
      simp only [Memory.readBytes, List.getElem_cons_succ]
      rw [ih (a + 1) k (by simpa [Memory.readBytes] using hk)]
      congr 1
      omega

/-! ## The canonical form -/

theorem memory_wf_nil : Memory.wf [] := by simp [Memory.wf]

theorem memory_wf_erase {m : Memory} (h : m.wf) (a : Nat) : (m.erase a).wf :=
  ⟨h.1.sublist List.filter_sublist, fun c hc => h.2 c (List.mem_of_mem_filter hc)⟩

theorem memory_mem_insert {m : Memory} {a : Nat} {b : Byte} {c : Host.Cell}
    (h : c ∈ Memory.insert a b m) : c = (a, b) ∨ c ∈ m := by
  induction m with
  | nil => simpa [Memory.insert] using h
  | cons d m ih =>
    unfold Memory.insert at h
    split_ifs at h with hlt
    · simpa using h
    · rcases List.mem_cons.mp h with rfl | h
      · simp
      · rcases ih h with h | h <;> simp [h]

theorem memory_wf_insert {m : Memory} (h : m.wf) {a : Nat} {b : Byte} (hm : ∀ c ∈ m, c.1 ≠ a)
    (ha : a < Config.memSize) (hb : b ≠ Memory.initial a) : Memory.wf (Memory.insert a b m) := by
  refine ⟨?_, fun c hc => ?_⟩
  · obtain ⟨hp, -⟩ := h
    induction m with
    | nil => simp [Memory.insert]
    | cons d m ih =>
      obtain ⟨hd, hp⟩ := List.pairwise_cons.mp hp
      unfold Memory.insert
      split_ifs with hlt
      · refine List.pairwise_cons.mpr ⟨fun e he => ?_, List.pairwise_cons.mpr ⟨hd, hp⟩⟩
        rcases List.mem_cons.mp he with rfl | he
        · exact hlt
        · exact Nat.lt_trans hlt (hd e he)
      · have hne : d.1 ≠ a := hm d (by simp)
        refine List.pairwise_cons.mpr ⟨fun e he => ?_, ih (fun c hc => hm c (by simp [hc])) hp⟩
        rcases memory_mem_insert he with rfl | he
        · show d.1 < a
          omega
        · exact hd e he
  · rcases memory_mem_insert hc with rfl | hc
    · exact ⟨ha, hb⟩
    · exact h.2 c hc

/-- A write keeps the canonical form. -/
theorem memory_wf_write {m : Memory} (h : m.wf) (a : Nat) (b : Byte) : (m.write a b).wf := by
  unfold Memory.write
  split_ifs with ha hb
  · exact memory_wf_erase h a
  · exact memory_wf_insert (memory_wf_erase h a) (memory_not_mem_erase m a) ha hb
  · exact h

/-- Consecutive writes keep the canonical form. -/
theorem memory_wf_writeBytes {m : Memory} (h : m.wf) (a : Nat) (bs : List Byte) :
    (m.writeBytes a bs).wf := by
  induction bs generalizing m a with
  | nil => exact h
  | cons b bs ih => exact ih (memory_wf_write h a b) (a + 1)

theorem reset_memory_wf : State.reset.mem.wf := memory_wf_nil

/-- The memory Reset leaves is in canonical form, whatever the ROM (70_reset_and_hazards R160). -/
theorem afterReset_memory_wf (rom : List Byte) : (State.afterReset rom).mem.wf := by
  unfold State.afterReset
  split_ifs
  · exact memory_wf_nil
  · exact memory_wf_writeBytes memory_wf_nil _ _

end Sys2Proof.Machine
end

