-- ==== Sys2Proof/Laws/State.lean ====
section
/-! SUPPORT. What each named update of the state does to each field: one lemma per field and update, so that
no later proof unfolds a record update. -/

namespace Sys2Proof.Machine

section

variable (s : State)

/-! ### writeV -/

@[simp] theorem State.writeV_v (x : Reg) (b : Byte) : (s.writeV x b).v = s.v.set x.val b := rfl
@[simp] theorem State.writeV_i (x : Reg) (b : Byte) : (s.writeV x b).i = s.i := rfl
@[simp] theorem State.writeV_pc (x : Reg) (b : Byte) : (s.writeV x b).pc = s.pc := rfl
@[simp] theorem State.writeV_stack (x : Reg) (b : Byte) : (s.writeV x b).stack = s.stack := rfl
@[simp] theorem State.writeV_sp (x : Reg) (b : Byte) : (s.writeV x b).sp = s.sp := rfl
@[simp] theorem State.writeV_dt (x : Reg) (b : Byte) : (s.writeV x b).dt = s.dt := rfl
@[simp] theorem State.writeV_st (x : Reg) (b : Byte) : (s.writeV x b).st = s.st := rfl
@[simp] theorem State.writeV_mem (x : Reg) (b : Byte) : (s.writeV x b).mem = s.mem := rfl
@[simp] theorem State.writeV_fb (x : Reg) (b : Byte) : (s.writeV x b).fb = s.fb := rfl
@[simp] theorem State.writeV_dirty (x : Reg) (b : Byte) : (s.writeV x b).dirty = s.dirty := rfl
@[simp] theorem State.writeV_wait (x : Reg) (b : Byte) : (s.writeV x b).wait = s.wait := rfl
@[simp] theorem State.writeV_waitX (x : Reg) (b : Byte) : (s.writeV x b).waitX = s.waitX := rfl
@[simp] theorem State.writeV_err (x : Reg) (b : Byte) : (s.writeV x b).err = s.err := rfl
@[simp] theorem State.writeV_ports (x : Reg) (b : Byte) : (s.writeV x b).ports = s.ports := rfl
@[simp] theorem State.writeV_sampleIx (x : Reg) (b : Byte) : (s.writeV x b).sampleIx = s.sampleIx := rfl
@[simp] theorem State.writeV_diag (x : Reg) (b : Byte) : (s.writeV x b).diag = s.diag := rfl
@[simp] theorem State.writeV_pending (x : Reg) (b : Byte) : (s.writeV x b).pending = s.pending := rfl

/-! ### advance -/

@[simp] theorem State.advance_v : (s.advance).v = s.v := rfl
@[simp] theorem State.advance_i : (s.advance).i = s.i := rfl
@[simp] theorem State.advance_pc : (s.advance).pc = s.pc + 2 := rfl
@[simp] theorem State.advance_stack : (s.advance).stack = s.stack := rfl
@[simp] theorem State.advance_sp : (s.advance).sp = s.sp := rfl
@[simp] theorem State.advance_dt : (s.advance).dt = s.dt := rfl
@[simp] theorem State.advance_st : (s.advance).st = s.st := rfl
@[simp] theorem State.advance_mem : (s.advance).mem = s.mem := rfl
@[simp] theorem State.advance_fb : (s.advance).fb = s.fb := rfl
@[simp] theorem State.advance_dirty : (s.advance).dirty = s.dirty := rfl
@[simp] theorem State.advance_wait : (s.advance).wait = s.wait := rfl
@[simp] theorem State.advance_waitX : (s.advance).waitX = s.waitX := rfl
@[simp] theorem State.advance_err : (s.advance).err = s.err := rfl
@[simp] theorem State.advance_ports : (s.advance).ports = s.ports := rfl
@[simp] theorem State.advance_sampleIx : (s.advance).sampleIx = s.sampleIx := rfl
@[simp] theorem State.advance_diag : (s.advance).diag = s.diag := rfl
@[simp] theorem State.advance_pending : (s.advance).pending = s.pending := rfl

/-! ### skipIf -/

@[simp] theorem State.skipIf_v (c : Bool) : (s.skipIf c).v = s.v := rfl
@[simp] theorem State.skipIf_i (c : Bool) : (s.skipIf c).i = s.i := rfl
@[simp] theorem State.skipIf_pc (c : Bool) : (s.skipIf c).pc = if c then s.pc + 4 else s.pc + 2 := rfl
@[simp] theorem State.skipIf_stack (c : Bool) : (s.skipIf c).stack = s.stack := rfl
@[simp] theorem State.skipIf_sp (c : Bool) : (s.skipIf c).sp = s.sp := rfl
@[simp] theorem State.skipIf_dt (c : Bool) : (s.skipIf c).dt = s.dt := rfl
@[simp] theorem State.skipIf_st (c : Bool) : (s.skipIf c).st = s.st := rfl
@[simp] theorem State.skipIf_mem (c : Bool) : (s.skipIf c).mem = s.mem := rfl
@[simp] theorem State.skipIf_fb (c : Bool) : (s.skipIf c).fb = s.fb := rfl
@[simp] theorem State.skipIf_dirty (c : Bool) : (s.skipIf c).dirty = s.dirty := rfl
@[simp] theorem State.skipIf_wait (c : Bool) : (s.skipIf c).wait = s.wait := rfl
@[simp] theorem State.skipIf_waitX (c : Bool) : (s.skipIf c).waitX = s.waitX := rfl
@[simp] theorem State.skipIf_err (c : Bool) : (s.skipIf c).err = s.err := rfl
@[simp] theorem State.skipIf_ports (c : Bool) : (s.skipIf c).ports = s.ports := rfl
@[simp] theorem State.skipIf_sampleIx (c : Bool) : (s.skipIf c).sampleIx = s.sampleIx := rfl
@[simp] theorem State.skipIf_diag (c : Bool) : (s.skipIf c).diag = s.diag := rfl
@[simp] theorem State.skipIf_pending (c : Bool) : (s.skipIf c).pending = s.pending := rfl

/-! ### jump -/

@[simp] theorem State.jump_v (w : Word) : (s.jump w).v = s.v := rfl
@[simp] theorem State.jump_i (w : Word) : (s.jump w).i = s.i := rfl
@[simp] theorem State.jump_pc (w : Word) : (s.jump w).pc = w := rfl
@[simp] theorem State.jump_stack (w : Word) : (s.jump w).stack = s.stack := rfl
@[simp] theorem State.jump_sp (w : Word) : (s.jump w).sp = s.sp := rfl
@[simp] theorem State.jump_dt (w : Word) : (s.jump w).dt = s.dt := rfl
@[simp] theorem State.jump_st (w : Word) : (s.jump w).st = s.st := rfl
@[simp] theorem State.jump_mem (w : Word) : (s.jump w).mem = s.mem := rfl
@[simp] theorem State.jump_fb (w : Word) : (s.jump w).fb = s.fb := rfl
@[simp] theorem State.jump_dirty (w : Word) : (s.jump w).dirty = s.dirty := rfl
@[simp] theorem State.jump_wait (w : Word) : (s.jump w).wait = s.wait := rfl
@[simp] theorem State.jump_waitX (w : Word) : (s.jump w).waitX = s.waitX := rfl
@[simp] theorem State.jump_err (w : Word) : (s.jump w).err = s.err := rfl
@[simp] theorem State.jump_ports (w : Word) : (s.jump w).ports = s.ports := rfl
@[simp] theorem State.jump_sampleIx (w : Word) : (s.jump w).sampleIx = s.sampleIx := rfl
@[simp] theorem State.jump_diag (w : Word) : (s.jump w).diag = s.diag := rfl
@[simp] theorem State.jump_pending (w : Word) : (s.jump w).pending = s.pending := rfl

/-! ### push -/

@[simp] theorem State.push_v : (s.push).v = s.v := rfl
@[simp] theorem State.push_i : (s.push).i = s.i := rfl
@[simp] theorem State.push_pc : (s.push).pc = s.pc := rfl
@[simp] theorem State.push_stack : (s.push).stack = s.stack.setIfInBounds s.sp.val s.pc := rfl
@[simp] theorem State.push_sp : (s.push).sp = s.sp + 1 := rfl
@[simp] theorem State.push_dt : (s.push).dt = s.dt := rfl
@[simp] theorem State.push_st : (s.push).st = s.st := rfl
@[simp] theorem State.push_mem : (s.push).mem = s.mem := rfl
@[simp] theorem State.push_fb : (s.push).fb = s.fb := rfl
@[simp] theorem State.push_dirty : (s.push).dirty = s.dirty := rfl
@[simp] theorem State.push_wait : (s.push).wait = s.wait := rfl
@[simp] theorem State.push_waitX : (s.push).waitX = s.waitX := rfl
@[simp] theorem State.push_err : (s.push).err = s.err := rfl
@[simp] theorem State.push_ports : (s.push).ports = s.ports := rfl
@[simp] theorem State.push_sampleIx : (s.push).sampleIx = s.sampleIx := rfl
@[simp] theorem State.push_diag : (s.push).diag = s.diag := rfl
@[simp] theorem State.push_pending : (s.push).pending = s.pending := rfl

/-! ### pop -/

@[simp] theorem State.pop_v : (s.pop).v = s.v := rfl
@[simp] theorem State.pop_i : (s.pop).i = s.i := rfl
@[simp] theorem State.pop_pc : (s.pop).pc = s.pc := rfl
@[simp] theorem State.pop_stack : (s.pop).stack = s.stack := rfl
@[simp] theorem State.pop_sp : (s.pop).sp = s.sp - 1 := rfl
@[simp] theorem State.pop_dt : (s.pop).dt = s.dt := rfl
@[simp] theorem State.pop_st : (s.pop).st = s.st := rfl
@[simp] theorem State.pop_mem : (s.pop).mem = s.mem := rfl
@[simp] theorem State.pop_fb : (s.pop).fb = s.fb := rfl
@[simp] theorem State.pop_dirty : (s.pop).dirty = s.dirty := rfl
@[simp] theorem State.pop_wait : (s.pop).wait = s.wait := rfl
@[simp] theorem State.pop_waitX : (s.pop).waitX = s.waitX := rfl
@[simp] theorem State.pop_err : (s.pop).err = s.err := rfl
@[simp] theorem State.pop_ports : (s.pop).ports = s.ports := rfl
@[simp] theorem State.pop_sampleIx : (s.pop).sampleIx = s.sampleIx := rfl
@[simp] theorem State.pop_diag : (s.pop).diag = s.diag := rfl
@[simp] theorem State.pop_pending : (s.pop).pending = s.pending := rfl

/-! ### emit -/

@[simp] theorem State.emit_v (e : DiagEvent) : (s.emit e).v = s.v := rfl
@[simp] theorem State.emit_i (e : DiagEvent) : (s.emit e).i = s.i := rfl
@[simp] theorem State.emit_pc (e : DiagEvent) : (s.emit e).pc = s.pc := rfl
@[simp] theorem State.emit_stack (e : DiagEvent) : (s.emit e).stack = s.stack := rfl
@[simp] theorem State.emit_sp (e : DiagEvent) : (s.emit e).sp = s.sp := rfl
@[simp] theorem State.emit_dt (e : DiagEvent) : (s.emit e).dt = s.dt := rfl
@[simp] theorem State.emit_st (e : DiagEvent) : (s.emit e).st = s.st := rfl
@[simp] theorem State.emit_mem (e : DiagEvent) : (s.emit e).mem = s.mem := rfl
@[simp] theorem State.emit_fb (e : DiagEvent) : (s.emit e).fb = s.fb := rfl
@[simp] theorem State.emit_dirty (e : DiagEvent) : (s.emit e).dirty = s.dirty := rfl
@[simp] theorem State.emit_wait (e : DiagEvent) : (s.emit e).wait = s.wait := rfl
@[simp] theorem State.emit_waitX (e : DiagEvent) : (s.emit e).waitX = s.waitX := rfl
@[simp] theorem State.emit_err (e : DiagEvent) : (s.emit e).err = s.err := rfl
@[simp] theorem State.emit_ports (e : DiagEvent) : (s.emit e).ports = s.ports := rfl
@[simp] theorem State.emit_sampleIx (e : DiagEvent) : (s.emit e).sampleIx = s.sampleIx := rfl
@[simp] theorem State.emit_diag (e : DiagEvent) : (s.emit e).diag = s.diag ++ [e] := rfl
@[simp] theorem State.emit_pending (e : DiagEvent) : (s.emit e).pending = s.pending := rfl

/-! ### raise -/

@[simp] theorem State.raise_v (k : ErrKind) (w : Word) : (s.raise k w).v = s.v := rfl
@[simp] theorem State.raise_i (k : ErrKind) (w : Word) : (s.raise k w).i = s.i := rfl
@[simp] theorem State.raise_pc (k : ErrKind) (w : Word) : (s.raise k w).pc = s.pc := rfl
@[simp] theorem State.raise_stack (k : ErrKind) (w : Word) : (s.raise k w).stack = s.stack := rfl
@[simp] theorem State.raise_sp (k : ErrKind) (w : Word) : (s.raise k w).sp = s.sp := rfl
@[simp] theorem State.raise_dt (k : ErrKind) (w : Word) : (s.raise k w).dt = s.dt := rfl
@[simp] theorem State.raise_st (k : ErrKind) (w : Word) : (s.raise k w).st = s.st := rfl
@[simp] theorem State.raise_mem (k : ErrKind) (w : Word) : (s.raise k w).mem = s.mem := rfl
@[simp] theorem State.raise_fb (k : ErrKind) (w : Word) : (s.raise k w).fb = s.fb := rfl
@[simp] theorem State.raise_dirty (k : ErrKind) (w : Word) : (s.raise k w).dirty = s.dirty := rfl
@[simp] theorem State.raise_wait (k : ErrKind) (w : Word) : (s.raise k w).wait = s.wait := rfl
@[simp] theorem State.raise_waitX (k : ErrKind) (w : Word) : (s.raise k w).waitX = s.waitX := rfl
@[simp] theorem State.raise_err (k : ErrKind) (w : Word) : (s.raise k w).err = some k := rfl
@[simp] theorem State.raise_ports (k : ErrKind) (w : Word) : (s.raise k w).ports = s.ports := rfl
@[simp] theorem State.raise_sampleIx (k : ErrKind) (w : Word) : (s.raise k w).sampleIx = s.sampleIx := rfl
@[simp] theorem State.raise_diag (k : ErrKind) (w : Word) : (s.raise k w).diag = s.diag ++ [.fatal k s.pc w] := rfl
@[simp] theorem State.raise_pending (k : ErrKind) (w : Word) : (s.raise k w).pending = s.pending := rfl

/-! ### reportUnknown -/

@[simp] theorem State.reportUnknown_v (w : Word) : (s.reportUnknown w).v = s.v := rfl
@[simp] theorem State.reportUnknown_i (w : Word) : (s.reportUnknown w).i = s.i := rfl
@[simp] theorem State.reportUnknown_pc (w : Word) : (s.reportUnknown w).pc = s.pc + 2 := rfl
@[simp] theorem State.reportUnknown_stack (w : Word) : (s.reportUnknown w).stack = s.stack := rfl
@[simp] theorem State.reportUnknown_sp (w : Word) : (s.reportUnknown w).sp = s.sp := rfl
@[simp] theorem State.reportUnknown_dt (w : Word) : (s.reportUnknown w).dt = s.dt := rfl
@[simp] theorem State.reportUnknown_st (w : Word) : (s.reportUnknown w).st = s.st := rfl
@[simp] theorem State.reportUnknown_mem (w : Word) : (s.reportUnknown w).mem = s.mem := rfl
@[simp] theorem State.reportUnknown_fb (w : Word) : (s.reportUnknown w).fb = s.fb := rfl
@[simp] theorem State.reportUnknown_dirty (w : Word) : (s.reportUnknown w).dirty = s.dirty := rfl
@[simp] theorem State.reportUnknown_wait (w : Word) : (s.reportUnknown w).wait = s.wait := rfl
@[simp] theorem State.reportUnknown_waitX (w : Word) : (s.reportUnknown w).waitX = s.waitX := rfl
@[simp] theorem State.reportUnknown_err (w : Word) : (s.reportUnknown w).err = s.err := rfl
@[simp] theorem State.reportUnknown_ports (w : Word) : (s.reportUnknown w).ports = s.ports := rfl
@[simp] theorem State.reportUnknown_sampleIx (w : Word) : (s.reportUnknown w).sampleIx = s.sampleIx := rfl
@[simp] theorem State.reportUnknown_diag (w : Word) : (s.reportUnknown w).diag = s.diag ++ [.unknown s.pc w] := rfl
@[simp] theorem State.reportUnknown_pending (w : Word) : (s.reportUnknown w).pending = s.pending := rfl

/-! ### clearDirty -/

@[simp] theorem State.clearDirty_v : (s.clearDirty).v = s.v := rfl
@[simp] theorem State.clearDirty_i : (s.clearDirty).i = s.i := rfl
@[simp] theorem State.clearDirty_pc : (s.clearDirty).pc = s.pc := rfl
@[simp] theorem State.clearDirty_stack : (s.clearDirty).stack = s.stack := rfl
@[simp] theorem State.clearDirty_sp : (s.clearDirty).sp = s.sp := rfl
@[simp] theorem State.clearDirty_dt : (s.clearDirty).dt = s.dt := rfl
@[simp] theorem State.clearDirty_st : (s.clearDirty).st = s.st := rfl
@[simp] theorem State.clearDirty_mem : (s.clearDirty).mem = s.mem := rfl
@[simp] theorem State.clearDirty_fb : (s.clearDirty).fb = s.fb := rfl
@[simp] theorem State.clearDirty_dirty : (s.clearDirty).dirty = false := rfl
@[simp] theorem State.clearDirty_wait : (s.clearDirty).wait = s.wait := rfl
@[simp] theorem State.clearDirty_waitX : (s.clearDirty).waitX = s.waitX := rfl
@[simp] theorem State.clearDirty_err : (s.clearDirty).err = s.err := rfl
@[simp] theorem State.clearDirty_ports : (s.clearDirty).ports = s.ports := rfl
@[simp] theorem State.clearDirty_sampleIx : (s.clearDirty).sampleIx = s.sampleIx := rfl
@[simp] theorem State.clearDirty_diag : (s.clearDirty).diag = s.diag := rfl
@[simp] theorem State.clearDirty_pending : (s.clearDirty).pending = s.pending := rfl

/-! ### samplePorts -/

@[simp] theorem State.samplePorts_v (p : Ports) : (s.samplePorts p).v = s.v := rfl
@[simp] theorem State.samplePorts_i (p : Ports) : (s.samplePorts p).i = s.i := rfl
@[simp] theorem State.samplePorts_pc (p : Ports) : (s.samplePorts p).pc = s.pc := rfl
@[simp] theorem State.samplePorts_stack (p : Ports) : (s.samplePorts p).stack = s.stack := rfl
@[simp] theorem State.samplePorts_sp (p : Ports) : (s.samplePorts p).sp = s.sp := rfl
@[simp] theorem State.samplePorts_dt (p : Ports) : (s.samplePorts p).dt = s.dt := rfl
@[simp] theorem State.samplePorts_st (p : Ports) : (s.samplePorts p).st = s.st := rfl
@[simp] theorem State.samplePorts_mem (p : Ports) : (s.samplePorts p).mem = s.mem := rfl
@[simp] theorem State.samplePorts_fb (p : Ports) : (s.samplePorts p).fb = s.fb := rfl
@[simp] theorem State.samplePorts_dirty (p : Ports) : (s.samplePorts p).dirty = s.dirty := rfl
@[simp] theorem State.samplePorts_wait (p : Ports) : (s.samplePorts p).wait = s.wait := rfl
@[simp] theorem State.samplePorts_waitX (p : Ports) : (s.samplePorts p).waitX = s.waitX := rfl
@[simp] theorem State.samplePorts_err (p : Ports) : (s.samplePorts p).err = s.err := rfl
@[simp] theorem State.samplePorts_ports (p : Ports) : (s.samplePorts p).ports = p := rfl
@[simp] theorem State.samplePorts_sampleIx (p : Ports) : (s.samplePorts p).sampleIx = s.sampleIx := rfl
@[simp] theorem State.samplePorts_diag (p : Ports) : (s.samplePorts p).diag = s.diag := rfl
@[simp] theorem State.samplePorts_pending (p : Ports) : (s.samplePorts p).pending = s.pending := rfl

/-! ### sampleFree -/

@[simp] theorem State.sampleFree_v : (s.sampleFree).v = s.v := rfl
@[simp] theorem State.sampleFree_i : (s.sampleFree).i = s.i := rfl
@[simp] theorem State.sampleFree_pc : (s.sampleFree).pc = s.pc := rfl
@[simp] theorem State.sampleFree_stack : (s.sampleFree).stack = s.stack := rfl
@[simp] theorem State.sampleFree_sp : (s.sampleFree).sp = s.sp := rfl
@[simp] theorem State.sampleFree_dt : (s.sampleFree).dt = s.dt := rfl
@[simp] theorem State.sampleFree_st : (s.sampleFree).st = s.st := rfl
@[simp] theorem State.sampleFree_mem : (s.sampleFree).mem = s.mem := rfl
@[simp] theorem State.sampleFree_fb : (s.sampleFree).fb = s.fb := rfl
@[simp] theorem State.sampleFree_dirty : (s.sampleFree).dirty = s.dirty := rfl
@[simp] theorem State.sampleFree_wait : (s.sampleFree).wait = s.wait := rfl
@[simp] theorem State.sampleFree_waitX : (s.sampleFree).waitX = s.waitX := rfl
@[simp] theorem State.sampleFree_err : (s.sampleFree).err = s.err := rfl
@[simp] theorem State.sampleFree_ports : (s.sampleFree).ports = ⟨Config.freeKeys s.sampleIx, Config.freeKeyEvent s.sampleIx, Config.freeRnd s.sampleIx⟩ := rfl
@[simp] theorem State.sampleFree_sampleIx : (s.sampleFree).sampleIx = s.sampleIx + 1 := rfl
@[simp] theorem State.sampleFree_diag : (s.sampleFree).diag = s.diag := rfl
@[simp] theorem State.sampleFree_pending : (s.sampleFree).pending = s.pending := rfl

/-! ### writeWithFlag -/

@[simp] theorem State.writeWithFlag_v (x : Reg) (b : Byte) (f : Bool) : (s.writeWithFlag x b f).v = (s.v.set x.val b).set 15 (flagByte f) := rfl
@[simp] theorem State.writeWithFlag_i (x : Reg) (b : Byte) (f : Bool) : (s.writeWithFlag x b f).i = s.i := rfl
@[simp] theorem State.writeWithFlag_pc (x : Reg) (b : Byte) (f : Bool) : (s.writeWithFlag x b f).pc = s.pc := rfl
@[simp] theorem State.writeWithFlag_stack (x : Reg) (b : Byte) (f : Bool) : (s.writeWithFlag x b f).stack = s.stack := rfl
@[simp] theorem State.writeWithFlag_sp (x : Reg) (b : Byte) (f : Bool) : (s.writeWithFlag x b f).sp = s.sp := rfl
@[simp] theorem State.writeWithFlag_dt (x : Reg) (b : Byte) (f : Bool) : (s.writeWithFlag x b f).dt = s.dt := rfl
@[simp] theorem State.writeWithFlag_st (x : Reg) (b : Byte) (f : Bool) : (s.writeWithFlag x b f).st = s.st := rfl
@[simp] theorem State.writeWithFlag_mem (x : Reg) (b : Byte) (f : Bool) : (s.writeWithFlag x b f).mem = s.mem := rfl
@[simp] theorem State.writeWithFlag_fb (x : Reg) (b : Byte) (f : Bool) : (s.writeWithFlag x b f).fb = s.fb := rfl
@[simp] theorem State.writeWithFlag_dirty (x : Reg) (b : Byte) (f : Bool) : (s.writeWithFlag x b f).dirty = s.dirty := rfl
@[simp] theorem State.writeWithFlag_wait (x : Reg) (b : Byte) (f : Bool) : (s.writeWithFlag x b f).wait = s.wait := rfl
@[simp] theorem State.writeWithFlag_waitX (x : Reg) (b : Byte) (f : Bool) : (s.writeWithFlag x b f).waitX = s.waitX := rfl
@[simp] theorem State.writeWithFlag_err (x : Reg) (b : Byte) (f : Bool) : (s.writeWithFlag x b f).err = s.err := rfl
@[simp] theorem State.writeWithFlag_ports (x : Reg) (b : Byte) (f : Bool) : (s.writeWithFlag x b f).ports = s.ports := rfl
@[simp] theorem State.writeWithFlag_sampleIx (x : Reg) (b : Byte) (f : Bool) : (s.writeWithFlag x b f).sampleIx = s.sampleIx := rfl
@[simp] theorem State.writeWithFlag_diag (x : Reg) (b : Byte) (f : Bool) : (s.writeWithFlag x b f).diag = s.diag := rfl
@[simp] theorem State.writeWithFlag_pending (x : Reg) (b : Byte) (f : Bool) : (s.writeWithFlag x b f).pending = s.pending := rfl

/-! ### timerTick -/

@[simp] theorem State.timerTick_v : (s.timerTick).v = s.v := by
  unfold State.timerTick; split <;> rfl
@[simp] theorem State.timerTick_i : (s.timerTick).i = s.i := by
  unfold State.timerTick; split <;> rfl
@[simp] theorem State.timerTick_pc : (s.timerTick).pc = s.pc := by
  unfold State.timerTick; split <;> rfl
@[simp] theorem State.timerTick_stack : (s.timerTick).stack = s.stack := by
  unfold State.timerTick; split <;> rfl
@[simp] theorem State.timerTick_sp : (s.timerTick).sp = s.sp := by
  unfold State.timerTick; split <;> rfl
@[simp] theorem State.timerTick_mem : (s.timerTick).mem = s.mem := by
  unfold State.timerTick; split <;> rfl
@[simp] theorem State.timerTick_fb : (s.timerTick).fb = s.fb := by
  unfold State.timerTick; split <;> rfl
@[simp] theorem State.timerTick_dirty : (s.timerTick).dirty = s.dirty := by
  unfold State.timerTick; split <;> rfl
@[simp] theorem State.timerTick_wait : (s.timerTick).wait = s.wait := by
  unfold State.timerTick; split <;> rfl
@[simp] theorem State.timerTick_waitX : (s.timerTick).waitX = s.waitX := by
  unfold State.timerTick; split <;> rfl
@[simp] theorem State.timerTick_err : (s.timerTick).err = s.err := by
  unfold State.timerTick; split <;> rfl
@[simp] theorem State.timerTick_ports : (s.timerTick).ports = s.ports := by
  unfold State.timerTick; split <;> rfl
@[simp] theorem State.timerTick_sampleIx : (s.timerTick).sampleIx = s.sampleIx := by
  unfold State.timerTick; split <;> rfl
@[simp] theorem State.timerTick_diag : (s.timerTick).diag = s.diag := by
  unfold State.timerTick; split <;> rfl
@[simp] theorem State.timerTick_pending : (s.timerTick).pending = s.pending := by
  unfold State.timerTick; split <;> rfl

/-! ### pollKey -/

@[simp] theorem State.pollKey_i : (s.pollKey).i = s.i := by
  unfold State.pollKey; split <;> rfl
@[simp] theorem State.pollKey_stack : (s.pollKey).stack = s.stack := by
  unfold State.pollKey; split <;> rfl
@[simp] theorem State.pollKey_sp : (s.pollKey).sp = s.sp := by
  unfold State.pollKey; split <;> rfl
@[simp] theorem State.pollKey_dt : (s.pollKey).dt = s.dt := by
  unfold State.pollKey; split <;> rfl
@[simp] theorem State.pollKey_st : (s.pollKey).st = s.st := by
  unfold State.pollKey; split <;> rfl
@[simp] theorem State.pollKey_mem : (s.pollKey).mem = s.mem := by
  unfold State.pollKey; split <;> rfl
@[simp] theorem State.pollKey_fb : (s.pollKey).fb = s.fb := by
  unfold State.pollKey; split <;> rfl
@[simp] theorem State.pollKey_dirty : (s.pollKey).dirty = s.dirty := by
  unfold State.pollKey; split <;> rfl
@[simp] theorem State.pollKey_waitX : (s.pollKey).waitX = s.waitX := by
  unfold State.pollKey; split <;> rfl
@[simp] theorem State.pollKey_err : (s.pollKey).err = s.err := by
  unfold State.pollKey; split <;> rfl
@[simp] theorem State.pollKey_ports : (s.pollKey).ports = s.ports := by
  unfold State.pollKey; split <;> rfl
@[simp] theorem State.pollKey_sampleIx : (s.pollKey).sampleIx = s.sampleIx := by
  unfold State.pollKey; split <;> rfl
@[simp] theorem State.pollKey_diag : (s.pollKey).diag = s.diag := by
  unfold State.pollKey; split <;> rfl
@[simp] theorem State.pollKey_pending : (s.pollKey).pending = s.pending := by
  unfold State.pollKey; split <;> rfl

/-! ### resetWith -/

@[simp] theorem State.resetWith_v (rom : List Byte) : (s.resetWith rom).v = (State.afterReset rom).v := rfl
@[simp] theorem State.resetWith_i (rom : List Byte) : (s.resetWith rom).i = (State.afterReset rom).i := rfl
@[simp] theorem State.resetWith_pc (rom : List Byte) : (s.resetWith rom).pc = (State.afterReset rom).pc := rfl
@[simp] theorem State.resetWith_stack (rom : List Byte) : (s.resetWith rom).stack = (State.afterReset rom).stack := rfl
@[simp] theorem State.resetWith_sp (rom : List Byte) : (s.resetWith rom).sp = (State.afterReset rom).sp := rfl
@[simp] theorem State.resetWith_dt (rom : List Byte) : (s.resetWith rom).dt = (State.afterReset rom).dt := rfl
@[simp] theorem State.resetWith_st (rom : List Byte) : (s.resetWith rom).st = (State.afterReset rom).st := rfl
@[simp] theorem State.resetWith_mem (rom : List Byte) : (s.resetWith rom).mem = (State.afterReset rom).mem := rfl
@[simp] theorem State.resetWith_fb (rom : List Byte) : (s.resetWith rom).fb = (State.afterReset rom).fb := rfl
@[simp] theorem State.resetWith_dirty (rom : List Byte) : (s.resetWith rom).dirty = (State.afterReset rom).dirty := rfl
@[simp] theorem State.resetWith_wait (rom : List Byte) : (s.resetWith rom).wait = (State.afterReset rom).wait := rfl
@[simp] theorem State.resetWith_waitX (rom : List Byte) : (s.resetWith rom).waitX = (State.afterReset rom).waitX := rfl
@[simp] theorem State.resetWith_err (rom : List Byte) : (s.resetWith rom).err = (State.afterReset rom).err := rfl
@[simp] theorem State.resetWith_ports (rom : List Byte) : (s.resetWith rom).ports = (State.afterReset rom).ports := rfl
@[simp] theorem State.resetWith_sampleIx (rom : List Byte) : (s.resetWith rom).sampleIx = s.sampleIx := rfl
@[simp] theorem State.resetWith_diag (rom : List Byte) : (s.resetWith rom).diag = s.diag ++ (State.afterReset rom).diag := rfl
@[simp] theorem State.resetWith_pending (rom : List Byte) : (s.resetWith rom).pending = s.pending := rfl

end

end Sys2Proof.Machine
end

