-- ==== Sys2Proof/Laws/Ops.lean ====
section
/-! SUPPORT. For each shared operation one lemma that says everything it can do. -/

namespace Sys2Proof.Machine

/-! ## Registers -/

@[simp] theorem readV_writeV_same (s : State) (x : Reg) (b : Byte) : (s.writeV x b).readV x = b := by
  simp [State.readV]

theorem readV_writeV (s : State) (x y : Reg) (b : Byte) :
    (s.writeV x b).readV y = if x = y then b else s.readV y := by
  simp [State.readV, Vector.getElem_set, Fin.ext_iff]

/-- Result, then flag: VF holds the flag, VX the result unless it is VF (10_state R12). -/
theorem readV_writeWithFlag (s : State) (x y : Reg) (b : Byte) (f : Bool) :
    (s.writeWithFlag x b f).readV y =
      if y = regF then flagByte f else if x = y then b else s.readV y := by
  unfold State.writeWithFlag
  rw [readV_writeV, readV_writeV]
  simp only [eq_comm]

theorem readV_congr {s t : State} (h : t.v = s.v) (x : Reg) : t.readV x = s.readV x := by
  simp [State.readV, h]

/-- What a run of bytes written to V[k] upward leaves in register j. -/
theorem writeRegsFrom_getElem (bs : List Byte) (v : Vector Byte 16) (k j : Nat) (hj : j < 16) :
    (writeRegsFrom v k bs)[j] = if h : k ≤ j ∧ j - k < bs.length then bs[j - k] else v[j] := by
  induction bs generalizing v k with
  | nil => simp [writeRegsFrom]
  | cons b bs ih =>
    rw [writeRegsFrom, ih]
    by_cases h0 : j = k
    · subst h0
      simp
    · by_cases h1 : k + 1 ≤ j ∧ j - (k + 1) < bs.length
      · have h2 : k ≤ j ∧ j - k < (b :: bs).length := by simp only [List.length_cons]; omega
        rw [dif_pos h1, dif_pos h2]
        have h3 : j - k = (j - (k + 1)) + 1 := by omega
        simp only [h3, List.getElem_cons_succ]
      · have h2 : ¬(k ≤ j ∧ j - k < (b :: bs).length) := by simp only [List.length_cons]; omega
        rw [dif_neg h1, dif_neg h2, Vector.getElem_setIfInBounds]
        simp [Ne.symm h0]

@[simp] theorem regsUpTo_length (s : State) (x : Reg) : (s.regsUpTo x).length = x.val + 1 := by
  simp [State.regsUpTo]

theorem regsUpTo_getElem (s : State) (x : Reg) (k : Nat) (hk : k < (s.regsUpTo x).length) :
    (s.regsUpTo x)[k] = s.readV ⟨k, by simp at hk; omega⟩ := by
  simp [State.regsUpTo, State.readV]

@[simp] theorem decimalDigits_length (a : Byte) : (decimalDigits a).length = 3 := rfl

/-- SND is active exactly while ST is nonzero (10_state R23). -/
theorem snd_iff (s : State) : s.snd = true ↔ s.st ≠ 0 := by
  have h : s.st = 0 ↔ s.st.toNat = 0 := ⟨fun h => by simp [h], fun h => BitVec.eq_of_toNat_eq h⟩
  simp only [State.snd, decide_eq_true_eq, ne_eq, h]
  omega

/-- One tick takes 1 off a nonzero timer (60_exceptions R143). -/
theorem tickDown_toNat (t : Byte) : (tickDown t).toNat = t.toNat - 1 := by
  unfold tickDown
  split_ifs with h
  · simp [h]
  · have h0 : t.toNat ≠ 0 := fun h' => h (BitVec.eq_of_toNat_eq h')
    have := t.isLt
    rw [BitVec.toNat_sub]
    simp
    omega

/-! ## Storing at I -/

theorem spanFits_iff (s : State) (n : Nat) : s.spanFits n = true ↔ s.i.toNat + n ≤ 0x1000 := by
  simp [State.spanFits, Config.memSize]

/-- A store at I either writes its bytes and advances pc, or raises MemoryOutOfBounds and writes none
(20_memory R38). -/
theorem storeAtI_cases (s : State) (bytes : List Byte) (w : Word) :
    (s.i.toNat + bytes.length ≤ 0x1000 ∧
      s.storeAtI bytes w =
        { s with mem := s.mem.writeBytes s.i.toNat bytes, pc := s.pc + 2 }) ∨
    (0x1000 < s.i.toNat + bytes.length ∧ s.storeAtI bytes w = s.raise .memoryOutOfBounds w) := by
  unfold State.storeAtI State.spanFits
  by_cases h : s.i.toNat + bytes.length ≤ 4096
  · left
    exact ⟨h, by simp only [h, decide_true, if_true]; rfl⟩
  · right
    exact ⟨by omega, by simp only [h, decide_false]; rfl⟩

/-- DXYN past its memory check either rejects an edge and changes nothing but ERR and DIAG, or toggles its
cells (43_display R111). -/
theorem drawSprite_cases (s : State) (cells : List (Nat × Nat)) (w : Word) :
    (cells.any offGrid = true ∧ s.drawSprite cells w = s.raise .frameBufferOutOfBounds w) ∨
    (cells.any offGrid = false ∧
      s.drawSprite cells w =
        { s with
          v := s.v.set 15 (flagByte (cells.any fun c => s.fb.pixel c.1 c.2))
          fb := s.fb.toggleAll cells
          dirty := true
          pc := s.pc + 2 }) := by
  unfold State.drawSprite
  cases h : cells.any offGrid with
  | true => exact .inl ⟨rfl, rfl⟩
  | false => exact .inr ⟨rfl, rfl⟩

/-- A poll of the key wait either ends it or changes nothing (44_keys_timers R126). -/
theorem pollKey_cases (s : State) :
    (s.ports.keyEvent = none ∧ s.pollKey = s) ∨
    ∃ k, s.ports.keyEvent = some k ∧
      s.pollKey =
        { s with v := s.v.set s.waitX.val (k.setWidth 8), wait := false, pc := s.pc + 2 } := by
  unfold State.pollKey
  cases h : s.ports.keyEvent with
  | none => exact .inl ⟨rfl, rfl⟩
  | some k => exact .inr ⟨k, rfl, rfl⟩

/-- Reset with a ROM that fits (70_reset_and_hazards R160). -/
theorem afterReset_fits {rom : List Byte} (h : rom.length ≤ 3584) :
    State.afterReset rom = { State.reset with mem := Memory.writeBytes [] 0x200 rom } := by
  unfold State.afterReset
  rw [if_neg (by simp only [Config.romMax]; omega)]

/-- Reset with a ROM that does not fit (10_state R26). -/
theorem afterReset_too_long {rom : List Byte} (h : 3584 < rom.length) :
    State.afterReset rom = State.reset.raise .loadError 0 := by
  unfold State.afterReset
  rw [if_pos h]

/-! ## The Step and the host operations -/

/-- Everything a Step with sampled ports can do (30_encoding R58). -/
theorem stepSampled_cases (s : State) :
    (s.err ≠ none ∧ stepSampled s = .next s) ∨
    (s.err = none ∧ s.wait = true ∧ stepSampled s = .next s.pollKey) ∨
    (s.err = none ∧ s.wait = false ∧ 0x0FFE < s.pc.toNat ∧
      stepSampled s = .next (s.raise .memoryOutOfBounds 0)) ∨
    (s.err = none ∧ s.wait = false ∧ s.pc.toNat ≤ 0x0FFE ∧
      ((∃ i, decodeWord s.fetchWord = .ok i ∧ stepSampled s = exec i s) ∨
        ∃ e, decodeWord s.fetchWord = .error e ∧
          stepSampled s = .next (s.reportUnknown s.fetchWord))) := by
  unfold stepSampled State.canFetch
  cases he : s.err with
  | some k => exact .inl ⟨by simp, by simp⟩
  | none =>
    refine .inr ?_
    cases hw : s.wait with
    | true => exact .inl ⟨rfl, rfl, by simp⟩
    | false =>
      refine .inr ?_
      by_cases hp : s.pc.toNat ≤ 0x0FFE
      · refine .inr ⟨rfl, rfl, hp, ?_⟩
        cases hd : decodeWord s.fetchWord with
        | ok i => exact .inl ⟨i, rfl, by simp [hp]⟩
        | error e => exact .inr ⟨e, rfl, by simp [hp]⟩
      · exact .inl ⟨rfl, rfl, by omega, by simp [hp]⟩

/-- What `step` performs: the oldest queued operation, or a Step with free ports (00_scope R4). -/
theorem step_cases (s : State) :
    (s.pending = [] ∧ step s = stepSampled s.sampleFree) ∨
    ∃ op ops, s.pending = op :: ops ∧ step s = hostOp op { s with pending := ops } := by
  unfold step nextOperation
  cases h : s.pending with
  | nil => exact .inl ⟨rfl, rfl⟩
  | cons op ops => exact .inr ⟨op, ops, rfl, rfl⟩

end Sys2Proof.Machine
end

