-- ==== Sys2Proof/Laws/Display.lean ====
section
/-! SUPPORT. Framebuffer cells after each operation, and which cells a sprite touches. -/

namespace Sys2Proof.Machine

theorem pixel_of_lt (fb : Framebuffer) {x y : Nat} (hx : x < 64) (hy : y < 32) :
    fb.pixel x y = fb[y][x] := by
  simp [Framebuffer.pixel, hx, hy]

/-- A cell outside the grid reads as off. -/
theorem pixel_outside (fb : Framebuffer) {x y : Nat} (h : 64 ≤ x ∨ 32 ≤ y) : fb.pixel x y = false := by
  unfold Framebuffer.pixel
  by_cases hy : y < 32
  · have hx : 64 ≤ x := by omega
    simp [hy, hx]
  · simp [Nat.le_of_not_lt hy]

@[simp] theorem pixel_clear (x y : Nat) : Framebuffer.clear.pixel x y = false := by
  by_cases h : x < 64 ∧ y < 32
  · simp [Framebuffer.clear, pixel_of_lt _ h.1 h.2]
  · exact pixel_outside _ (by omega)

/-- Two framebuffers with the same cells are equal. -/
theorem framebuffer_ext {fb fb' : Framebuffer}
    (h : ∀ x y, x < 64 → y < 32 → fb.pixel x y = fb'.pixel x y) : fb = fb' := by
  ext y hy x hx
  rw [← pixel_of_lt fb hx hy, ← pixel_of_lt fb' hx hy, h x y hx hy]

/-- One toggle inverts its own cell and no other (43_display R111). -/
theorem pixel_toggle (fb : Framebuffer) (c : Nat × Nat) (x y : Nat) (hx : c.1 < 64) (hy : c.2 < 32) :
    (fb.toggle c).pixel x y = if c = (x, y) then !fb.pixel x y else fb.pixel x y := by
  obtain ⟨a, b⟩ := c
  simp only at hx hy
  by_cases h : x < 64 ∧ y < 32
  · obtain ⟨h1, h2⟩ := h
    rw [pixel_of_lt _ h1 h2, pixel_of_lt _ h1 h2]
    simp only [Framebuffer.toggle, Vector.getElem?_eq_getElem hy, Prod.mk.injEq]
    by_cases hb : b = y
    · subst hb
      by_cases ha : a = x
      · subst ha
        simp [pixel_of_lt _ h1 h2]
      · simp [ha]
    · simp [hb]
  · have hne : (a, b) ≠ (x, y) := by
      intro he
      obtain ⟨rfl, rfl⟩ := Prod.mk.inj he
      exact h ⟨hx, hy⟩
    rw [pixel_outside _ (by omega), pixel_outside _ (by omega), if_neg hne]

theorem mem_rowCells (x0 y : Nat) (row : Byte) (c : Nat × Nat) :
    c ∈ rowCells x0 y row ↔ c.2 = y ∧ ∃ k, k < 8 ∧ c.1 = x0 + k ∧ row.getLsbD (7 - k) = true := by
  obtain ⟨a, b⟩ := c
  simp only [rowCells, List.mem_map, List.mem_filter, List.mem_range, Prod.mk.injEq]
  constructor
  · rintro ⟨k, ⟨hk, hr⟩, rfl, rfl⟩
    exact ⟨rfl, k, hk, rfl, hr⟩
  · rintro ⟨rfl, k, hk, rfl, hr⟩
    exact ⟨k, ⟨hk, hr⟩, rfl, rfl⟩

/-- The cells of a sprite are those of its set bits: bit 7 - k of row r lies at (x0 + k, y0 + r)
(43_display R112). -/
theorem mem_spriteCells (x0 y0 : Nat) (rows : List Byte) (c : Nat × Nat) :
    c ∈ spriteCells x0 y0 rows ↔
      ∃ (r k : Nat) (h : r < rows.length), k < 8 ∧ c = (x0 + k, y0 + r) ∧
        rows[r].getLsbD (7 - k) = true := by
  induction rows generalizing y0 with
  | nil => simp [spriteCells]
  | cons row rows ih =>
    rw [spriteCells, List.mem_append, mem_rowCells, ih]
    constructor
    · rintro (⟨h2, k, hk, h1, hr⟩ | ⟨r, k, h, hk, rfl, hr⟩)
      · exact ⟨0, k, by simp, hk, by rw [← h1, ← h2]; rfl, hr⟩
      · exact ⟨r + 1, k, by simpa using h, hk, by rw [Nat.add_assoc, Nat.add_comm 1 r], hr⟩
    · rintro ⟨r, k, h, hk, rfl, hr⟩
      cases r with
      | zero => exact .inl ⟨rfl, k, hk, rfl, hr⟩
      | succ r =>
        exact .inr ⟨r, k, by simpa using h, hk, by rw [Nat.add_assoc, Nat.add_comm 1 r], hr⟩

/-- The set bits of a sprite lie on distinct cells. -/
theorem spriteCells_nodup (x0 y0 : Nat) (rows : List Byte) : (spriteCells x0 y0 rows).Nodup := by
  induction rows generalizing y0 with
  | nil => simp [spriteCells]
  | cons row rows ih =>
    refine List.nodup_append.mpr ⟨?_, ih (y0 + 1), ?_⟩
    · refine List.Nodup.map ?_ (List.nodup_range.filter _)
      intro a b hab
      have := congrArg Prod.fst hab
      simpa using this
    · rintro a ha b hb rfl
      obtain ⟨h, -⟩ := (mem_rowCells _ _ _ _).mp ha
      obtain ⟨r, k, -, -, rfl, -⟩ := (mem_spriteCells _ _ _ _).mp hb
      simp only at h
      omega

end Sys2Proof.Machine
end

