-- ==== Sys2Proof/Laws/PerInstr.lean ====
section
/-! SUPPORT. The per-instruction family RowMatch: every instruction is well formed, its row is one of the
opcode map, and its word selects that row (30_encoding R53, R54, R61). -/

namespace Sys2Proof.Laws.RowMatch

/-- The instruction's operands fit their fields, its row stands in the opcode map, and its word carries
the row's fixed bits. -/
def Statement (i : Instr) : Prop :=
  i.WellFormed = true ∧ i.row ∈ opcodeMap ∧ encode i &&& i.row.mask = i.row.pattern

theorem cls : Statement .cls :=
  ⟨instr_wellFormed _, by simp [opcodeMap, Instr.row], rfl⟩

theorem ret : Statement .ret :=
  ⟨instr_wellFormed _, by simp [opcodeMap, Instr.row], rfl⟩

theorem jp (nnn : Addr) : Statement (.jp nnn) :=
  ⟨instr_wellFormed _, by simp [opcodeMap, Instr.row], formatNNN_masked _ _⟩

theorem call (nnn : Addr) : Statement (.call nnn) :=
  ⟨instr_wellFormed _, by simp [opcodeMap, Instr.row], formatNNN_masked _ _⟩

theorem seImm (x : Reg) (kk : Byte) : Statement (.seImm x kk) :=
  ⟨instr_wellFormed _, by simp [opcodeMap, Instr.row], formatXKK_masked_op _ _ _⟩

theorem sneImm (x : Reg) (kk : Byte) : Statement (.sneImm x kk) :=
  ⟨instr_wellFormed _, by simp [opcodeMap, Instr.row], formatXKK_masked_op _ _ _⟩

theorem seReg (x y : Reg) : Statement (.seReg x y) :=
  ⟨instr_wellFormed _, by simp [opcodeMap, Instr.row], formatXYN_masked _ _ _ _⟩

theorem ldImm (x : Reg) (kk : Byte) : Statement (.ldImm x kk) :=
  ⟨instr_wellFormed _, by simp [opcodeMap, Instr.row], formatXKK_masked_op _ _ _⟩

theorem addImm (x : Reg) (kk : Byte) : Statement (.addImm x kk) :=
  ⟨instr_wellFormed _, by simp [opcodeMap, Instr.row], formatXKK_masked_op _ _ _⟩

theorem ldReg (x y : Reg) : Statement (.ldReg x y) :=
  ⟨instr_wellFormed _, by simp [opcodeMap, Instr.row], formatXYN_masked _ _ _ _⟩

theorem orReg (x y : Reg) : Statement (.orReg x y) :=
  ⟨instr_wellFormed _, by simp [opcodeMap, Instr.row], formatXYN_masked _ _ _ _⟩

theorem andReg (x y : Reg) : Statement (.andReg x y) :=
  ⟨instr_wellFormed _, by simp [opcodeMap, Instr.row], formatXYN_masked _ _ _ _⟩

theorem xorReg (x y : Reg) : Statement (.xorReg x y) :=
  ⟨instr_wellFormed _, by simp [opcodeMap, Instr.row], formatXYN_masked _ _ _ _⟩

theorem addReg (x y : Reg) : Statement (.addReg x y) :=
  ⟨instr_wellFormed _, by simp [opcodeMap, Instr.row], formatXYN_masked _ _ _ _⟩

theorem subReg (x y : Reg) : Statement (.subReg x y) :=
  ⟨instr_wellFormed _, by simp [opcodeMap, Instr.row], formatXYN_masked _ _ _ _⟩

theorem shr (x y : Reg) : Statement (.shr x y) :=
  ⟨instr_wellFormed _, by simp [opcodeMap, Instr.row], formatXYN_masked _ _ _ _⟩

theorem subnReg (x y : Reg) : Statement (.subnReg x y) :=
  ⟨instr_wellFormed _, by simp [opcodeMap, Instr.row], formatXYN_masked _ _ _ _⟩

theorem shl (x y : Reg) : Statement (.shl x y) :=
  ⟨instr_wellFormed _, by simp [opcodeMap, Instr.row], formatXYN_masked _ _ _ _⟩

theorem sneReg (x y : Reg) : Statement (.sneReg x y) :=
  ⟨instr_wellFormed _, by simp [opcodeMap, Instr.row], formatXYN_masked _ _ _ _⟩

theorem ldI (nnn : Addr) : Statement (.ldI nnn) :=
  ⟨instr_wellFormed _, by simp [opcodeMap, Instr.row], formatNNN_masked _ _⟩

theorem jpV0 (nnn : Addr) : Statement (.jpV0 nnn) :=
  ⟨instr_wellFormed _, by simp [opcodeMap, Instr.row], formatNNN_masked _ _⟩

theorem rnd (x : Reg) (kk : Byte) : Statement (.rnd x kk) :=
  ⟨instr_wellFormed _, by simp [opcodeMap, Instr.row], formatXKK_masked_op _ _ _⟩

theorem drw (x y : Reg) (n : Nibble) : Statement (.drw x y n) :=
  ⟨instr_wellFormed _, by simp [opcodeMap, Instr.row], formatXYN_masked_op _ _ _ _⟩

theorem skp (x : Reg) : Statement (.skp x) :=
  ⟨instr_wellFormed _, by simp [opcodeMap, Instr.row], formatXKK_masked _ _ _⟩

theorem sknp (x : Reg) : Statement (.sknp x) :=
  ⟨instr_wellFormed _, by simp [opcodeMap, Instr.row], formatXKK_masked _ _ _⟩

theorem ldVxDt (x : Reg) : Statement (.ldVxDt x) :=
  ⟨instr_wellFormed _, by simp [opcodeMap, Instr.row], formatXKK_masked _ _ _⟩

theorem ldVxKey (x : Reg) : Statement (.ldVxKey x) :=
  ⟨instr_wellFormed _, by simp [opcodeMap, Instr.row], formatXKK_masked _ _ _⟩

theorem ldDtVx (x : Reg) : Statement (.ldDtVx x) :=
  ⟨instr_wellFormed _, by simp [opcodeMap, Instr.row], formatXKK_masked _ _ _⟩

theorem ldStVx (x : Reg) : Statement (.ldStVx x) :=
  ⟨instr_wellFormed _, by simp [opcodeMap, Instr.row], formatXKK_masked _ _ _⟩

theorem addI (x : Reg) : Statement (.addI x) :=
  ⟨instr_wellFormed _, by simp [opcodeMap, Instr.row], formatXKK_masked _ _ _⟩

theorem ldFont (x : Reg) : Statement (.ldFont x) :=
  ⟨instr_wellFormed _, by simp [opcodeMap, Instr.row], formatXKK_masked _ _ _⟩

theorem ldBcd (x : Reg) : Statement (.ldBcd x) :=
  ⟨instr_wellFormed _, by simp [opcodeMap, Instr.row], formatXKK_masked _ _ _⟩

theorem storeRegs (x : Reg) : Statement (.storeRegs x) :=
  ⟨instr_wellFormed _, by simp [opcodeMap, Instr.row], formatXKK_masked _ _ _⟩

theorem loadRegs (x : Reg) : Statement (.loadRegs x) :=
  ⟨instr_wellFormed _, by simp [opcodeMap, Instr.row], formatXKK_masked _ _ _⟩

end Sys2Proof.Laws.RowMatch
end

