-- ==== Sys2Proof/Laws/Step.lean ====
section
/-! SUPPORT. What placing an instruction word does: the very next step fetches and runs it; what a completed run
does from there on. -/

namespace Sys2Proof.Machine

theorem placeWord_pc_le (s : State) (w : Word) : (s.placeWord w).pc.toNat ≤ 0x0FFE := by
  unfold State.placeWord State.canFetch
  by_cases h : s.pc.toNat ≤ 0x0FFE
  · simp [h]
  · simp only [h, decide_false]
    show (BitVec.ofNat 16 Config.progBase).toNat ≤ 0x0FFE
    decide

/-- The Step after `placeWord` fetches the word placed. -/
theorem placeWord_fetchWord (s : State) (w : Word) : (s.placeWord w).fetchWord = w := by
  have hpc := placeWord_pc_le s w
  have hm : (s.placeWord w).mem =
      s.mem.writeBytes (s.placeWord w).pc.toNat (bytesOfWord w) := rfl
  have hfit : (s.placeWord w).pc.toNat + (bytesOfWord w).length ≤ Config.memSize := by
    simp only [bytesOfWord, List.length_cons, List.length_nil, Config.memSize]
    omega
  unfold State.fetchWord
  rw [hm, memory_read_writeBytes _ _ _ _ hfit, memory_read_writeBytes _ _ _ _ hfit]
  simpa [bytesOfWord] using wordOfBytes_bytesOfWord w

/-- A placed instruction is what the very next step runs, from every state, with the ports of a Step for
which nothing is queued. -/
theorem step_placeWord (s : State) (w : Word) (i : Instr) (h : decodeWord w = .ok i) :
    step (s.placeWord w) = exec i (s.placeWord w).sampleFree := by
  have hpc := placeWord_pc_le s w
  have hf : (s.placeWord w).sampleFree.fetchWord = w := placeWord_fetchWord s w
  show stepSampled (s.placeWord w).sampleFree = _
  unfold stepSampled
  rw [hf, h]
  have he : (s.placeWord w).sampleFree.err = none := rfl
  have hw : (s.placeWord w).sampleFree.wait = false := rfl
  have hc : (s.placeWord w).sampleFree.canFetch = true := by
    exact decide_eq_true hpc
  rw [he, hw, hc]
  rfl

/-- The same for `withFetchWord`, whose words are numerals. -/
theorem step_withFetchWord (s : State) (w : Nat) (hw : w < 2 ^ 16) (i : Instr)
    (h : decodeWord (BitVec.ofNat 16 w) = .ok i) :
    step (s.withFetchWord 16 w) = exec i (s.withFetchWord 16 w).sampleFree := by
  unfold State.withFetchWord
  rw [Nat.mod_eq_of_lt hw]
  exact step_placeWord s _ i h

/-- A Step whose ports are sampled is the sequence of 30_encoding R58 on the sampled state. -/
theorem step_of_stepFrom {s s₀ : State} (h : StepFrom s s₀) : step s = stepSampled s₀ := by
  obtain ⟨hp, rfl⟩ | ⟨p, ops, hp, rfl⟩ := h
  · simp only [step, nextOperation, hp]
  · simp only [step, nextOperation, hp]
    rfl

/-- A Step that fetches runs the instruction it decodes to (30_encoding R58). -/
theorem stepSampled_of_fetches {s : State} {i : Instr} (hf : Fetches s)
    (hd : decodeWord s.fetchWord = .ok i) : stepSampled s = exec i s := by
  obtain ⟨he, hw, hc⟩ := hf
  have hc : s.canFetch = true := decide_eq_true hc
  unfold stepSampled
  rw [he, hw, hc, hd]
  rfl

/-- An instruction that jumps to its own address leaves the state as it is (40_flow R71). -/
theorem exec_jp_self {s : State} (h : s.pc.toNat ≤ 0x0FFE) :
    exec (.jp (s.pc.setWidth 12)) s = .next s := by
  have hpc : targetOf (s.pc.setWidth 12) = s.pc := by
    apply BitVec.eq_of_toNat_eq
    simp only [targetOf, BitVec.toNat_setWidth]
    omega
  show Host.Outcome.next (s.jump (targetOf (s.pc.setWidth 12))) = _
  rw [hpc]
  rfl

/-- Every Step of a completed run leaves the state it samples as it is (70_reset_and_hazards R170). -/
theorem step_of_completed {s s₀ : State} (h : StepFrom s s₀) (hc : s₀.Completed) :
    step s = .next s₀ := by
  rw [step_of_stepFrom h, stepSampled_of_fetches hc.1 hc.2, exec_jp_self hc.1.2.2]

/-- A completed run stays completed under every operation but Reset. -/
theorem completed_step {s t : State} (hc : s.Completed) (h : step s = .next t)
    (hr : ∀ rom ops, s.pending ≠ .reset rom :: ops) : t.Completed := by
  cases hp : s.pending with
  | nil =>
    have hc' : s.sampleFree.Completed := hc
    rw [step_of_completed (.inl ⟨hp, rfl⟩) hc'] at h
    cases h
    exact hc'
  | cons op ops =>
    have hs : step s = hostOp op { s with pending := ops } := by simp only [step, nextOperation, hp]
    cases op with
    | reset rom => exact absurd hp (hr rom ops)
    | step p =>
      have hc' : State.Completed { s with ports := p, pending := ops } := hc
      rw [step_of_completed (.inr ⟨p, ops, hp, rfl⟩) hc'] at h
      cases h
      exact hc'
    | timerTick =>
      rw [hs] at h
      cases h
      have he : s.err = none := hc.1.1
      unfold State.timerTick
      rw [if_neg (by simp [he])]
      exact hc
    | clearDirty =>
      rw [hs] at h
      cases h
      exact hc
    | readFrame =>
      rw [hs] at h
      cases h
      exact hc

/-- A completed run has not failed. -/
theorem completed_not_failed {s : State} (hc : s.Completed) : ¬ s.Failed := fun h => h hc.1.1

/-- A run of the machine goes on from the state its first operation answers. -/
theorem core_run_succ {s t : State} (k : Nat) (h : step s = .next t) :
    core.run (k + 1) s = core.run k t := by
  have h : core.step s = .next t := h
  simp only [Host.Core.run, h]

end Sys2Proof.Machine
end

