-- ==== Sys2Proof/Tests/Slice0.lean ====
section
/-! SUPPORT. Tests. The expected results are the spec's own vectors (95_test_vectors T1 to T194, cited by
number) and its rules' examples; and, for every statement with hypotheses, a witness that meets them. -/

namespace Sys2Proof.Tests

open Sys2Proof.Machine

/-! ## Decoding: one word of every constructor, written out from 30_encoding R51 and R54 -/

theorem test_decode_fixed :
    decodeWord 0x00E0 = .ok .cls ∧ decodeWord 0x00EE = .ok .ret := by decide

theorem test_decode_addresses :
    decodeWord 0x1204 = .ok (.jp 0x204) ∧ decodeWord 0x2FFE = .ok (.call 0xFFE) ∧
    decodeWord 0xA123 = .ok (.ldI 0x123) ∧ decodeWord 0xBFFF = .ok (.jpV0 0xFFF) := by decide

theorem test_decode_bytes :
    decodeWord 0x3F01 = .ok (.seImm 0xF 0x01) ∧ decodeWord 0x4111 = .ok (.sneImm 0x1 0x11) ∧
    decodeWord 0x6A05 = .ok (.ldImm 0xA 0x05) ∧ decodeWord 0x70FF = .ok (.addImm 0x0 0xFF) ∧
    decodeWord 0xC20F = .ok (.rnd 0x2 0x0F) := by decide

theorem test_decode_registers :
    decodeWord 0x5230 = .ok (.seReg 2 3) ∧ decodeWord 0x9CD0 = .ok (.sneReg 0xC 0xD) ∧
    decodeWord 0x8120 = .ok (.ldReg 1 2) ∧ decodeWord 0x8121 = .ok (.orReg 1 2) ∧
    decodeWord 0x8122 = .ok (.andReg 1 2) ∧ decodeWord 0x8123 = .ok (.xorReg 1 2) ∧
    decodeWord 0x83A4 = .ok (.addReg 3 0xA) ∧ decodeWord 0x80F5 = .ok (.subReg 0 0xF) ∧
    decodeWord 0x8F06 = .ok (.shr 0xF 0) ∧ decodeWord 0x8017 = .ok (.subnReg 0 1) ∧
    decodeWord 0x801E = .ok (.shl 0 1) ∧ decodeWord 0xD12F = .ok (.drw 1 2 0xF) := by decide

theorem test_decode_secondary :
    decodeWord 0xE39E = .ok (.skp 3) ∧ decodeWord 0xE3A1 = .ok (.sknp 3) ∧
    decodeWord 0xF207 = .ok (.ldVxDt 2) ∧ decodeWord 0xF10A = .ok (.ldVxKey 1) ∧
    decodeWord 0xF015 = .ok (.ldDtVx 0) ∧ decodeWord 0xF418 = .ok (.ldStVx 4) ∧
    decodeWord 0xF21E = .ok (.addI 2) ∧ decodeWord 0xF129 = .ok (.ldFont 1) ∧
    decodeWord 0xF333 = .ok (.ldBcd 3) ∧ decodeWord 0xFF55 = .ok (.storeRegs 0xF) ∧
    decodeWord 0xF265 = .ok (.loadRegs 2) := by decide

/-- T150, T152, T155, T157, T158, T160, and a lone byte. -/
theorem test_decode_rejects :
    decodeWord 0x0000 = .error (.unrecognized 0x0000) ∧
    decodeWord 0x00E1 = .error (.unrecognized 0x00E1) ∧
    decodeWord 0x9AB5 = .error (.unrecognized 0x9AB5) ∧
    decodeWord 0x812F = .error (.unrecognized 0x812F) ∧
    decodeWord 0xE19F = .error (.unrecognized 0xE19F) ∧
    decodeWord 0xF01F = .error (.unrecognized 0xF01F) ∧
    decode [0x60] = .error .truncated := by decide

/-- T194 and, at the table's numbering, the same instruction. -/
theorem test_encode_bytes :
    encodeBytes (.addReg 3 0xA) = [0x83, 0xA4] ∧
    decode [0x83, 0xA4, 0x12] = .ok (.addReg 3 0xA, [0x12]) ∧
    decodeTableWord 16 0x83A4 = some (.addReg 3 0xA) ∧ decodeTableWord 16 0x0123 = none := by decide

/-- T190, T191: 34 rows, no two of them with a common word. -/
theorem test_opcode_map :
    opcodeMap.length = 34 ∧
    opcodeMap.Pairwise (fun r q => r.pattern &&& q.mask ≠ q.pattern &&& r.mask) := by decide

/-! ## WellFormed: a term that each check refuses (30_encoding R51) -/

theorem test_ill_formed_x : Fields.fit { x := 16 } = false := by decide
theorem test_ill_formed_y : Fields.fit { y := 16 } = false := by decide
theorem test_ill_formed_n : Fields.fit { n := 16 } = false := by decide
theorem test_ill_formed_kk : Fields.fit { kk := 256 } = false := by decide
theorem test_ill_formed_nnn : Fields.fit { nnn := 4096 } = false := by decide
theorem test_well_formed_limits :
    Fields.fit { x := 15, y := 15, n := 15, kk := 255, nnn := 4095 } = true := by decide

/-! ## One Step from a small state -/

/-- The reset state with the listed registers. -/
def regs (l : List (Reg × Byte)) : State := l.foldl (fun s p => s.writeV p.1 p.2) State.reset

/-- The listed bytes stored at `a`. -/
def withBytes (s : State) (a : Nat) (bs : List Byte) : State := { s with mem := s.mem.writeBytes a bs }

/-- The listed cells toggled. -/
def withPixels (s : State) (cells : List (Nat × Nat)) : State := { s with fb := s.fb.toggleAll cells }

/-- The inputs the vectors do not list. -/
def quiet : Ports := { keys := 0, keyEvent := none, rnd := 0 }

/-- The state one step answers. -/
def stepOf (s : State) : Option State :=
  match step s with
  | .next t => some t
  | _ => none

/-- One Step with the word at pc and the given inputs. -/
def run (s : State) (w : Word) (p : Ports := quiet) : Option State :=
  stepOf { s.placeWord w with pending := [.step p] }

/-- V0, V1, VF and pc after one Step. -/
def seen (s : State) (w : Word) (p : Ports := quiet) : Option (List Byte × Word) :=
  (run s w p).map fun t => ([t.readV 0, t.readV 1, t.readV 15], t.pc)

/-- ERR and DIAG after one Step. -/
def trouble (s : State) (w : Word) : Option (Option ErrKind × List DiagEvent) :=
  (run s w).map fun t => (t.err, t.diag)

/-! ### Control transfer (T1 to T25) -/

/-- T1. -/
theorem test_ret :
    (run { State.reset with pc := 0x030A, sp := 1, stack := State.reset.stack.set 0 0x0204 } 0x00EE).map
      (fun t => (t.pc, t.sp)) = some (0x0206, 0) := by decide

/-- T2. -/
theorem test_ret_underflow :
    trouble State.reset 0x00EE =
      some (some .stackUnderflow, [.fatal .stackUnderflow 0x0200 0x00EE]) := by decide

/-- T6. -/
theorem test_jp : (run State.reset 0x1FFF).map (fun t => t.pc) = some 0x0FFF := by decide

/-- T9. -/
theorem test_call :
    (run { State.reset with pc := 0x0250, sp := 15 } 0x2300).map
      (fun t => (t.pc, t.sp, t.stack[15])) = some (0x0300, 16, 0x0250) := by decide

/-- T10. -/
theorem test_call_overflow :
    trouble { State.reset with pc := 0x0250, sp := 16 } 0x2300 =
      some (some .stackOverflow, [.fatal .stackOverflow 0x0250 0x2300]) := by decide

/-- T13. -/
theorem test_seImm : seen (regs [(15, 1)]) 0x3F01 = some ([0, 0, 1], 0x0204) := by decide

/-- T15. -/
theorem test_sneImm : seen (regs [(1, 0x10)]) 0x4110 = some ([0, 0x10, 0], 0x0202) := by decide

/-- T17. -/
theorem test_seReg : (run (regs [(2, 7), (3, 8)]) 0x5230).map (fun t => t.pc) = some 0x0202 := by decide

/-- T19. -/
theorem test_sneReg : (run (regs [(2, 7), (3, 8)]) 0x9230).map (fun t => t.pc) = some 0x0204 := by decide

/-- T23. -/
theorem test_jpV0 : seen (regs [(0, 0xFF)]) 0xBFFF = some ([0xFF, 0, 0], 0x10FE) := by decide

/-! ### Load, arithmetic, logic, shift, random (T30 to T69) -/

/-- T31. -/
theorem test_ldImm : seen State.reset 0x6F7B = some ([0, 0, 0x7B], 0x0202) := by decide

/-- T32. -/
theorem test_addImm : seen (regs [(0, 0xFF)]) 0x7002 = some ([1, 0, 0], 0x0202) := by decide

/-- T35. -/
theorem test_ldReg : seen (regs [(1, 0x2A)]) 0x8010 = some ([0x2A, 0x2A, 0], 0x0202) := by decide

/-- T36. -/
theorem test_orReg :
    seen (regs [(0, 0xF0), (1, 0x0F), (15, 1)]) 0x8011 = some ([0xFF, 0x0F, 1], 0x0202) := by decide

/-- T37. -/
theorem test_andReg :
    seen (regs [(0, 0xF0), (1, 0x3C), (15, 1)]) 0x8012 = some ([0x30, 0x3C, 1], 0x0202) := by decide

/-- T38. -/
theorem test_xorReg :
    seen (regs [(0, 0xF0), (1, 0x3C), (15, 1)]) 0x8013 = some ([0xCC, 0x3C, 1], 0x0202) := by decide

/-- T41. -/
theorem test_addReg :
    seen (regs [(0, 0xFE), (1, 0x01), (15, 1)]) 0x8014 = some ([0xFF, 1, 0], 0x0202) := by decide

/-- T48. -/
theorem test_addReg_vf : seen (regs [(15, 0x80)]) 0x8FF4 = some ([0, 0, 1], 0x0202) := by decide

/-- T51. -/
theorem test_subReg_equal :
    seen (regs [(0, 7), (1, 7), (15, 1)]) 0x8015 = some ([0, 7, 0], 0x0202) := by decide

/-- T54. -/
theorem test_subReg_vf_source : seen (regs [(0, 5), (15, 1)]) 0x80F5 = some ([4, 0, 1], 0x0202) := by decide

/-- T56. -/
theorem test_shr :
    seen (regs [(0, 4), (1, 0xFF), (15, 1)]) 0x8016 = some ([2, 0xFF, 0], 0x0202) := by decide

/-- T58. -/
theorem test_shr_vf : seen (regs [(15, 3)]) 0x8F06 = some ([0, 0, 1], 0x0202) := by decide

/-- T59. -/
theorem test_subnReg :
    seen (regs [(0, 5), (1, 3), (15, 1)]) 0x8017 = some ([0xFE, 3, 0], 0x0202) := by decide

/-- T64. -/
theorem test_shl :
    seen (regs [(0, 0x7F), (1, 0xAA), (15, 1)]) 0x801E = some ([0xFE, 0xAA, 0], 0x0202) := by decide

/-- T67. -/
theorem test_rnd :
    seen State.reset 0xC00F { quiet with rnd := 0xA7 } = some ([7, 0, 0], 0x0202) := by decide

/-! ### Index register and memory transfer (T70 to T94) -/

/-- T71. -/
theorem test_ldI : (run State.reset 0xAFFF).map (fun t => t.i) = some 0xFFF := by decide

/-- T75. -/
theorem test_addI_wraps :
    (run { regs [(0, 0xFF)] with i := 0xFFF } 0xF01E).map (fun t => (t.i, t.readV 15)) =
      some (0x0FE, 1) := by decide

/-- T77. -/
theorem test_addI_vf :
    (run { regs [(15, 5)] with i := 0x100 } 0xFF1E).map (fun t => (t.i, t.readV 15)) =
      some (0x105, 0) := by decide

/-- T79. -/
theorem test_ldFont : (run (regs [(1, 0x1A)]) 0xF129).map (fun t => t.i) = some 0x032 := by decide

/-- T83. -/
theorem test_ldBcd :
    (run { regs [(3, 0xFF)] with i := 0xFFD } 0xF333).map (fun t => t.mem.readBytes 0xFFD 3) =
      some [2, 5, 5] := by decide

/-- T84. -/
theorem test_ldBcd_bounds :
    trouble { regs [(3, 0xFF)] with i := 0xFFE } 0xF333 =
      some (some .memoryOutOfBounds, [.fatal .memoryOutOfBounds 0x0200 0xF333]) := by decide

/-- T85. -/
theorem test_storeRegs :
    (run { regs [(0, 0x11), (1, 0x22), (2, 0x33)] with i := 0x400 } 0xF155).map
      (fun t => (t.mem.readBytes 0x400 3, t.i)) = some ([0x11, 0x22, 0], 0x400) := by decide

/-- T87: no partial store. -/
theorem test_storeRegs_bounds :
    (run { regs [(0, 0x77), (1, 0x88)] with i := 0xFFF } 0xF155).map
      (fun t => (t.mem.read 0xFFF, t.err, t.pc)) =
      some (0, some .memoryOutOfBounds, 0x0200) := by decide

/-- T88. -/
theorem test_loadRegs :
    (run { withBytes (regs [(3, 0xEE)]) 0x300 [2, 5, 4, 9] with i := 0x300 } 0xF265).map
      (fun t => [t.readV 0, t.readV 1, t.readV 2, t.readV 3]) = some [2, 5, 4, 0xEE] := by decide

/-- T89. -/
theorem test_loadRegs_bounds :
    trouble { regs [(0, 1), (1, 2)] with i := 0xFFF } 0xF165 =
      some (some .memoryOutOfBounds, [.fatal .memoryOutOfBounds 0x0200 0xF165]) := by decide

/-! ### Display (T100 to T117) -/

/-- T100. -/
theorem test_cls :
    (run (withPixels State.reset [(0, 0), (63, 31)]) 0x00E0).map
      (fun t => (t.fb.pixel 0 0, t.fb.pixel 63 31, t.dirty)) = some (false, false, true) := by decide

/-- T104: one cell off, one on. -/
theorem test_drw :
    (run { withPixels (withBytes State.reset 0x300 [0xC0]) [(1, 0)] with i := 0x300 } 0xD011).map
      (fun t => (t.fb.pixel 0 0, t.fb.pixel 1 0, t.readV 15, t.dirty)) =
      some (true, false, 1, true) := by decide

/-- T109: a set bit below the grid. -/
theorem test_drw_bounds :
    trouble { withBytes (regs [(1, 0x1F)]) 0x300 [0x00, 0x01] with i := 0x300 } 0xD012 =
      some (some .frameBufferOutOfBounds, [.fatal .frameBufferOutOfBounds 0x0200 0xD012]) := by decide

/-! ### Keys, timers, host operations (T120 to T142, T172, T180 to T183) -/

/-- T122. -/
theorem test_skp :
    (run (regs [(3, 0x15)]) 0xE39E { quiet with keys := 0x0020 }).map (fun t => t.pc) =
      some 0x0204 := by decide

/-- T125. -/
theorem test_sknp :
    (run (regs [(3, 0xF0)]) 0xE3A1 { quiet with keys := 0x0001 }).map (fun t => t.pc) =
      some 0x0202 := by decide

/-- T126. -/
theorem test_ldVxDt :
    (run { State.reset with dt := 7 } 0xF207).map (fun t => (t.readV 2, t.dt)) = some (7, 7) := by decide

/-- T128: the Step that issues the wait does not poll. -/
theorem test_ldVxKey :
    (run { State.reset with pc := 0x0204 } 0xF10A { quiet with keyEvent := some 7 }).map
      (fun t => (t.wait, t.waitX, t.pc, t.readV 1)) = some (true, 1, 0x0204, 0) := by decide

/-- T134: the wait ends although pc is at the last fetchable address. -/
theorem test_key_wait_ends :
    (stepOf { State.reset with
        pc := 0x0FFE, wait := true, waitX := 2
        pending := [.step { quiet with keyEvent := some 3 }] }).map
      (fun t => (t.readV 2, t.wait, t.pc)) = some (3, false, 0x1000) := by decide

/-- T135. -/
theorem test_ldDtVx : (run (regs [(0, 0x0A)]) 0xF015).map (fun t => (t.dt, t.st)) = some (10, 0) := by decide

/-- T137. -/
theorem test_ldStVx :
    (run (regs [(4, 3)]) 0xF418).map (fun t => (t.dt, t.st, t.snd)) = some (0, 3, true) := by decide

/-- T140. -/
theorem test_timerTick :
    (stepOf { State.reset with dt := 255, st := 2, pending := [.timerTick] }).map
      (fun t => (t.dt, t.st)) = some (254, 1) := by decide

/-- T142. -/
theorem test_timerTick_latched :
    (stepOf { State.reset with dt := 5, st := 5, err := some .stackOverflow, pending := [.timerTick] }).map
      (fun t => (t.dt, t.st)) = some (5, 5) := by decide

/-- T162: an unrecognized word at the last fetchable address. -/
theorem test_unknown :
    (run { State.reset with pc := 0x0FFE } 0xFFFF).map (fun t => (t.pc, t.err, t.diag)) =
      some (0x1000, none, [.unknown 0x0FFE 0xFFFF]) := by decide

/-- T7, T24: fetch beyond memory. -/
theorem test_fetch_bounds :
    (stepOf { State.reset with pc := 0x0FFF }).map (fun t => (t.pc, t.diag)) =
      some (0x0FFF, [.fatal .memoryOutOfBounds 0x0FFF 0]) ∧
    (stepOf { State.reset with pc := 0x10FE }).map (fun t => (t.pc, t.diag)) =
      some (0x10FE, [.fatal .memoryOutOfBounds 0x10FE 0]) := by decide

/-- T172: nothing runs while an error is latched. -/
theorem test_latched :
    (stepOf { withBytes State.reset 0x200 [0x60, 0x01] with
        err := some .memoryOutOfBounds, pending := [.step quiet] }).map
      (fun t => (t.readV 0, t.pc, t.diag)) = some (0, 0x0200, []) := by decide

/-- The start state of T183. -/
def spoiled : State :=
  { State.reset with
    err := some .stackOverflow, sp := 16, wait := true, dt := 9, dirty := true
    pending := [.reset [0x12, 0x34]] }

/-- T183. -/
theorem test_reset_state :
    (stepOf spoiled).map (fun t => (t.err, t.sp, t.wait, t.dt, t.dirty)) =
      some (none, 0, false, 0, false) := by decide

/-- T183. -/
theorem test_reset_memory :
    (stepOf spoiled).map (fun t => t.mem.readBytes 0x1FF 4) = some [0, 0x12, 0x34, 0] := by decide

/-- The codes of 60_exceptions R130, and ERR at reset. -/
theorem test_errCode :
    [none, some .loadError, some .stackOverflow, some .stackUnderflow, some .memoryOutOfBounds,
      some .frameBufferOutOfBounds].map errCode = [0, 1, 2, 3, 4, 5] ∧ errCode State.reset.err = 0 := by
  decide

/-- The idle loop of P1 at 0x020C is the end of a run; the state after reset is not. -/
theorem test_completed :
    ({ withBytes State.reset 0x20C [0x12, 0x0C] with pc := 0x020C } : State).Completed ∧
    ¬ State.reset.Completed := by
  unfold State.Completed Fetches
  decide

/-- The first Step after reset fetches what withFetchWord places. -/
theorem test_withFetchWord :
    (stepOf (State.reset.withFetchWord 16 0x6A05)).map (fun t => (t.readV 10, t.pc)) =
      some (0x05, 0x0202) := by decide

/-! ## Witnesses: states and operands that meet the hypotheses of the statements, each clause at a boundary -/

theorem witness_decodeInvertsEncode : (Instr.drw 15 15 15).WellFormed = true := by decide

theorem witness_encodeInvertsDecode : decodeWord 0xFF65 = .ok (.loadRegs 15) := by decide

theorem witness_decodeSelectsTheOnlyRow :
    (Instr.storeRegs 15).row ∈ opcodeMap ∧ (Instr.storeRegs 15).row.selects 0xFF55 = true ∧
      ∀ r ∈ opcodeMap, r.selects 0x00E1 = false := by decide

/-- A Step queued with its sample at the last fetchable address, and one with free ports. -/
def atEdge (hi lo : Byte) : State := { withBytes State.reset 0xFFE [hi, lo] with pc := 0x0FFE }

/-- The same with a Step queued. -/
def queued (s : State) (p : Ports := quiet) : State := { s with pending := [.step p] }

/-- The state the queued Step works on. -/
def sampled (s : State) (p : Ports := quiet) : State := { s with ports := p, pending := [] }

theorem stepFrom_queued (s : State) (p : Ports) : StepFrom (queued s p) (sampled s p) :=
  .inr ⟨p, [], rfl, rfl⟩

theorem stepFrom_free (s : State) (h : s.pending = []) : StepFrom s s.sampleFree := .inl ⟨h, rfl⟩

theorem witness_stepRunsDecodedInstruction_queued :
    StepFrom (queued (atEdge 0x60 0x01)) (sampled (atEdge 0x60 0x01)) ∧
    Fetches (sampled (atEdge 0x60 0x01)) ∧
    decodeWord ((sampled (atEdge 0x60 0x01)).mem.read 0xFFE ++
      (sampled (atEdge 0x60 0x01)).mem.read 0xFFF) = .ok (.ldImm 0 1) :=
  ⟨stepFrom_queued _ _, ⟨rfl, rfl, by decide⟩, by decide⟩

theorem witness_stepRunsDecodedInstruction_free :
    StepFrom (atEdge 0x60 0x01) (atEdge 0x60 0x01).sampleFree ∧
    Fetches (atEdge 0x60 0x01).sampleFree ∧
    decodeWord ((atEdge 0x60 0x01).sampleFree.mem.read 0xFFE ++
      (atEdge 0x60 0x01).sampleFree.mem.read 0xFFF) = .ok (.ldImm 0 1) :=
  ⟨stepFrom_free _ rfl, ⟨rfl, rfl, by decide⟩, by decide⟩

theorem witness_unrecognizedWordIsReportedAndSkipped :
    StepFrom (queued (atEdge 0x51 0x21)) (sampled (atEdge 0x51 0x21)) ∧
    Fetches (sampled (atEdge 0x51 0x21)) ∧
    (0x5121 : Word) = (sampled (atEdge 0x51 0x21)).mem.read 0xFFE ++
      (sampled (atEdge 0x51 0x21)).mem.read 0xFFF ∧
    decodeWord 0x5121 = .error (.unrecognized 0x5121) :=
  ⟨stepFrom_queued _ _, ⟨rfl, rfl, by decide⟩, by decide, by decide⟩

theorem witness_fetchBeyondMemoryRaises :
    StepFrom (queued { State.reset with pc := 0x0FFF }) (sampled { State.reset with pc := 0x0FFF }) ∧
    (sampled { State.reset with pc := 0x0FFF }).err = none ∧
    (sampled { State.reset with pc := 0x0FFF }).wait = false ∧
    0x0FFE < (sampled { State.reset with pc := 0x0FFF }).pc.toNat :=
  ⟨stepFrom_queued _ _, rfl, rfl, by decide⟩

/-- A key wait for VF at the last address it can hold. -/
def waiting : State := { State.reset with pc := 0x0FFE, wait := true, waitX := 15 }

theorem witness_keyWaitPollsTheEventPort_none :
    StepFrom (queued waiting) (sampled waiting) ∧ (sampled waiting).err = none ∧
    (sampled waiting).wait = true ∧ (sampled waiting).ports.keyEvent = none :=
  ⟨stepFrom_queued _ _, rfl, rfl, rfl⟩

theorem witness_keyWaitPollsTheEventPort_key :
    StepFrom (queued waiting { quiet with keyEvent := some 15 })
      (sampled waiting { quiet with keyEvent := some 15 }) ∧
    (sampled waiting { quiet with keyEvent := some 15 }).err = none ∧
    (sampled waiting { quiet with keyEvent := some 15 }).wait = true ∧
    (sampled waiting { quiet with keyEvent := some 15 }).ports.keyEvent = some 15 :=
  ⟨stepFrom_queued _ _, rfl, rfl, rfl⟩

/-- A latched error with DIRTY set and the given operation next. -/
def latched (op : HostOp) : State :=
  { State.reset with err := some .loadError, dirty := true, dt := 1, pending := [op] }

theorem witness_latchedErrorFreezesTheCore :
    (latched (.step quiet)).err ≠ none ∧
    StepFrom (latched (.step quiet)) { latched (.step quiet) with ports := quiet, pending := [] } ∧
    (latched .timerTick).err ≠ none ∧ (latched .timerTick).pending = [.timerTick] ∧
    (latched .readFrame).err ≠ none ∧ (latched .readFrame).pending = [.readFrame] ∧
    (latched .clearDirty).err ≠ none ∧ (latched .clearDirty).pending = [.clearDirty] :=
  ⟨by decide, .inr ⟨quiet, [], rfl, rfl⟩, by decide, rfl, by decide, rfl, by decide, rfl⟩

theorem witness_everyOperationKeepsMemoryCanonical :
    (withBytes State.reset 0x200 [0xF0, 0x55]).MemoryCanonical ∧
    ∃ t, step (queued (withBytes State.reset 0x200 [0xF0, 0x55])) = .next t :=
  ⟨by unfold State.MemoryCanonical; decide, _, rfl⟩

theorem witness_everyOperationKeepsFlowBounded_high :
    ({ State.reset with pc := 0x10FE } : State).FlowBounded ∧
    ∃ t, step (queued { State.reset with pc := 0x10FE }) = .next t :=
  ⟨by unfold State.FlowBounded; decide, _, rfl⟩

theorem witness_everyOperationKeepsFlowBounded_wait :
    waiting.FlowBounded ∧ ∃ t, step (queued waiting { quiet with keyEvent := some 15 }) = .next t :=
  ⟨by unfold State.FlowBounded; decide, _, rfl⟩

/-- A full stack of the highest return address. -/
def deep : State := { atEdge 0x00 0xEE with sp := 16, stack := Vector.replicate 16 0x0FFE }

theorem witness_everyOperationKeepsFlowBounded_stack :
    deep.FlowBounded ∧ ∃ t, step (queued deep) = .next t :=
  ⟨by unfold State.FlowBounded; decide, _, rfl⟩

theorem witness_onlyResetClearsALatchedError :
    (latched .clearDirty).err = some .loadError ∧ (∃ t, step (latched .clearDirty) = .next t) ∧
    ∀ rom ops, (latched .clearDirty).pending ≠ .reset rom :: ops :=
  ⟨rfl, ⟨_, rfl⟩, by simp [latched]⟩

theorem witness_aFaultingInstructionWritesNothing :
    (∃ t, exec .ret State.reset = .next t) ∧ ∃ t, exec .ret deep = .next t :=
  ⟨⟨_, rfl⟩, _, rfl⟩

theorem witness_onlyTheHostClearsDirty :
    (latched (.step quiet)).dirty = true ∧ (∃ t, step (latched (.step quiet)) = .next t) ∧
    (∀ ops, (latched (.step quiet)).pending ≠ .clearDirty :: ops) ∧
    ∀ rom ops, (latched (.step quiet)).pending ≠ .reset rom :: ops :=
  ⟨rfl, ⟨_, rfl⟩, by simp [latched], by simp [latched]⟩

theorem witness_onlyDisplayInstructionsWriteTheFrame :
    (∃ t, exec (.storeRegs 15) State.reset = .next t) ∧ writesDisplay (.storeRegs 15) = false :=
  ⟨⟨_, rfl⟩, rfl⟩

/-- I at its highest value that the given count still fits. -/
def topIndex (i : Addr) : State := { regs [(0, 0x12), (1, 0x34), (15, 0xFF)] with i := i }

theorem witness_onlyStoresWriteMemory :
    (∃ t, exec (.loadRegs 15) State.reset = .next t) ∧ writesMemory (.loadRegs 15) = false ∧
    (∃ t, exec (.ldBcd 0) (topIndex 0xFFD) = .next t) ∧ 0xFFC < (topIndex 0xFFD).i.toNat ∧
    (topIndex 0xFFD).i.toNat + 2 < 0x1000 ∧
    (∃ t, exec (.storeRegs 15) (topIndex 0xFF0) = .next t) ∧ 0xFEF < (topIndex 0xFF0).i.toNat ∧
    (topIndex 0xFF0).i.toNat + (15 : Reg).val < 0x1000 :=
  ⟨⟨_, rfl⟩, rfl, ⟨_, rfl⟩, by decide, by decide, ⟨_, rfl⟩, by decide, by decide⟩

/-- The instruction answers a next state with no new event. -/
def quietly (i : Instr) (s : State) : Prop := ∃ t, exec i s = .next t ∧ t.diag = s.diag

theorem witness_pcAdvancesByTwoElsewhere :
    quietly (.ldImm 15 255) State.reset ∧ transfersControl (.ldImm 15 255) = false ∧
    quietly (.seImm 0 0) State.reset ∧ quietly (.sneImm 0 0) State.reset ∧
    quietly (.seReg 0 0) State.reset ∧ quietly (.sneReg 0 0) State.reset ∧
    quietly (.skp 0) State.reset ∧ quietly (.sknp 0) State.reset ∧
    quietly (.ldVxKey 15) State.reset :=
  ⟨⟨_, rfl, rfl⟩, rfl, ⟨_, rfl, rfl⟩, ⟨_, rfl, rfl⟩, ⟨_, rfl, rfl⟩, ⟨_, rfl, rfl⟩, ⟨_, rfl, rfl⟩,
    ⟨_, rfl, rfl⟩, _, rfl, rfl⟩

theorem witness_registersChangeOnlyAsNamed :
    (∃ t, exec (.loadRegs 14) State.reset = .next t) ∧ (15 : Reg) ∉ destRegs (.loadRegs 14) ∧
    writesFlag (.loadRegs 14) = false ∧
    quietly (.addI 15) State.reset ∧ writesFlag (.addI 15) = true :=
  ⟨⟨_, rfl⟩, by decide, rfl, ⟨_, rfl, rfl⟩, rfl⟩

theorem witness_onlyCallAndReturnReachTheStack :
    (∃ t, exec (.jpV0 0xFFF) deep = .next t) ∧ movesStack (.jpV0 0xFFF) = false :=
  ⟨⟨_, rfl⟩, rfl⟩

/-- One witness for each disjunct: a TimerTick, and a Step that runs FX15. -/
theorem witness_delayTimerIncreasesOnlyByFX15 :
    (stepOf { State.reset with dt := 1, pending := [.timerTick] }).map (fun t => t.dt) = some 0 ∧
    (stepOf (queued (withBytes (regs [(0, 255)]) 0x200 [0xF0, 0x15]))).map (fun t => t.dt) =
      some 255 := by decide

theorem witness_diagIsNeverReadBack :
    ∃ t, step (queued (atEdge 0x00 0x00)) = .next t ∧ t.diag = [.unknown 0x0FFE 0x0000] :=
  ⟨_, rfl, rfl⟩

theorem witness_equalReadsEqualMemories :
    Memory.wf [(0, 0x0F), (0xFFF, 1)] ∧
      ∀ a, Memory.read [(0, 0x0F), (0xFFF, 1)] a = Memory.read (Memory.write [(0xFFF, 1)] 0 0x0F) a :=
  ⟨by decide, fun _ => rfl⟩

theorem witness_jumpGoesToNNN : (atEdge 0x1F 0xFE).pc.toNat = (0xFFE : Addr).toNat := by decide

theorem witness_callPushesItsOwnAddress :
    ({ State.reset with sp := 15 } : State).sp.val < 16 ∧ deep.sp.val = 16 := by decide

theorem witness_returnGoesPastTheCall :
    0 < ({ State.reset with sp := 1 } : State).sp.val ∧ 0 < deep.sp.val ∧ State.reset.sp.val = 0 := by
  decide

theorem witness_callThenReturnComesBack : ({ State.reset with sp := 15 } : State).sp.val < 16 := by decide

theorem witness_registerSkipsCompareVXWithVY : (1 : Nibble) ≠ 0 ∧ (15 : Nibble) ≠ 0 := by decide

theorem witness_flagSettingInstructionsGiveResultAndFlag :
    (14 : Reg) ≠ regF ∧ 0 = (topIndex 0).readV 14 ∧ 255 = ((topIndex 0).readV 15).toNat := by decide

theorem witness_withDestinationVFTheFlagRemains :
    255 = ((topIndex 0).readV regF).toNat ∧ 0x12 = ((topIndex 0).readV 0).toNat := by decide

theorem witness_shiftsIgnoreY : (15 : Reg) ≠ 0 := by decide

theorem witness_addToIndexWrapsAndFlags :
    0x10FE = (topIndex 0xFFF).i.toNat + ((topIndex 0xFFF).readV 15).toNat := by decide

theorem witness_decimalStoreWritesThreeDigits :
    (topIndex 0xFFD).i.toNat + 2 ≤ 0xFFF ∧ 0xFFF < (topIndex 0xFFE).i.toNat + 2 := by decide

theorem witness_registerStoreWritesV0ToVX :
    (topIndex 0xFF0).i.toNat + (15 : Reg).val ≤ 0xFFF ∧
    0xFFF < (topIndex 0xFF1).i.toNat + (15 : Reg).val := by decide

theorem witness_registerLoadReadsV0ToVX :
    (topIndex 0xFFF).i.toNat + (0 : Reg).val ≤ 0xFFF ∧
    0xFFF < (topIndex 0xFFF).i.toNat + (1 : Reg).val := by decide

theorem witness_storedBytesAreFetched :
    1 ≤ (1 : Reg).val ∧ (topIndex 0xFFE).i.toNat + (1 : Reg).val ≤ 0xFFF := by decide

/-- A one-row sprite of bit 0 alone in the last byte of memory, drawn at column V0 and row V1. -/
def sprite (x0 y0 : Byte) : State :=
  { withBytes (regs [(0, x0), (1, y0)]) 0xFFF [0x01] with i := 0xFFF }

theorem witness_drawInvertsTheSpriteCells :
    (sprite 0x38 0x1F).i.toNat + (1 : Nibble).toNat ≤ 0x1000 ∧
    (∀ a b, SpriteCovers (sprite 0x38 0x1F) ((sprite 0x38 0x1F).readV 0) ((sprite 0x38 0x1F).readV 1)
      1 a b → a < 64 ∧ b < 32) ∧
    SpriteCovers (sprite 0x38 0x1F) ((sprite 0x38 0x1F).readV 0) ((sprite 0x38 0x1F).readV 1)
      1 63 31 := by
  refine ⟨by decide, ?_, 0, 7, by decide, by decide, by decide, by decide, by decide⟩
  rintro a b ⟨r, k, hr, hk, ha, hb, -⟩
  have hr : r < 1 := hr
  have ha : a = 56 + k := ha
  have hb : b = 31 + r := hb
  omega

theorem witness_drawRejectsWhatLiesOutside_memory :
    0x1000 < (sprite 0 0).i.toNat + (2 : Nibble).toNat := by decide

theorem witness_drawRejectsWhatLiesOutside_right :
    (sprite 0x39 0).i.toNat + (1 : Nibble).toNat ≤ 0x1000 ∧
    ∃ a b, SpriteCovers (sprite 0x39 0) ((sprite 0x39 0).readV 0) ((sprite 0x39 0).readV 1) 1 a b ∧
      (64 ≤ a ∨ 32 ≤ b) :=
  ⟨by decide, 64, 0, ⟨0, 7, by decide, by decide, by decide, by decide, by decide⟩, .inl (by decide)⟩

/-- The sprite of T109: a clear row at y = 31 and a set bit below it. -/
def hanging : State := { withBytes (regs [(1, 0x1F)]) 0x300 [0x00, 0x01] with i := 0x300 }

theorem witness_drawRejectsWhatLiesOutside_bottom :
    hanging.i.toNat + (2 : Nibble).toNat ≤ 0x1000 ∧
    ∃ a b, SpriteCovers hanging (hanging.readV 0) (hanging.readV 1) 2 a b ∧ (64 ≤ a ∨ 32 ≤ b) :=
  ⟨by decide, 7, 32, ⟨1, 7, by decide, by decide, by decide, by decide, by decide⟩, .inr (by decide)⟩

theorem witness_drawingTwiceRestoresTheFrame :
    ∃ t, exec (.drw 0 1 1) (sprite 0x38 0x1F) = .next t ∧ t.diag = (sprite 0x38 0x1F).diag ∧
      t.readV 0 = (sprite 0x38 0x1F).readV 0 ∧ t.readV 1 = (sprite 0x38 0x1F).readV 1 ∧
      t.readV regF = 0 :=
  ⟨_, rfl, by decide, by decide, by decide, by decide⟩

theorem witness_keySkipsTestTheSampledLine :
    true = (sampled (regs [(3, 0xFF)]) { quiet with keys := 0x8000 }).ports.keys.getLsbD
      (((regs [(3, 0xFF)]).readV 3).toNat % 16) ∧
    false = (sampled (regs [(3, 0xFF)]) { quiet with keys := 0x7FFF }).ports.keys.getLsbD
      (((regs [(3, 0xFF)]).readV 3).toNat % 16) := by decide

theorem witness_timerTickCountsDown :
    ({ State.reset with dt := 1, pending := [.timerTick] } : State).pending = [.timerTick] ∧
    ({ State.reset with dt := 1, pending := [.timerTick] } : State).err = none ∧
    (latched .timerTick).pending = [.timerTick] ∧ (latched .timerTick).err ≠ none := by decide

theorem witness_readFrameShowsAndClearDirtyClears :
    (latched .readFrame).pending = [.readFrame] ∧ (latched .clearDirty).pending = [.clearDirty] := by
  decide

/-- A ROM of n bytes 0x12 (T181). -/
def rom (n : Nat) : List Byte := List.replicate n 0x12

theorem witness_resetLoadsTheRom :
    (rom 3584).length ≤ 3584 ∧ (latched (.reset (rom 3584))).pending = [.reset (rom 3584)] ∧
    3583 < (rom 3584).length ∧ 0x1FF < 0x200 ∧ 0x200 + (rom 3584).length ≤ 0x1000 := by
  have h : (rom 3584).length = 3584 := List.length_replicate
  exact ⟨by omega, rfl, by omega, by omega, by omega⟩

theorem witness_resetRefusesALongRom :
    3584 < (rom 3585).length ∧ (latched (.reset (rom 3585))).pending = [.reset (rom 3585)] := by
  have h : (rom 3585).length = 3585 := List.length_replicate
  exact ⟨by omega, rfl⟩

theorem witness_resetLeavesTheListedValues :
    80 ≤ 80 ∧ State.reset.mem.read 79 = 0x80 ∧ State.reset.mem.read 80 = 0 := by decide

end Sys2Proof.Tests
end

section
/-! PROOFS. Decoding and encoding are inverse of each other (30_encoding R61), and a word selects the row of the
instruction it decodes to and no other (R53). -/

namespace Sys2Proof

/-! ## Decoding an encoded instruction (30_encoding R61) -/

/-- The instructions stand as their formats: the dispatch on OP, N and KK meets the constants `encode` inserted,
and each operand is read back from the field it was written to. -/
@[simp] theorem decodeWord_encode (i : Instr) : decodeWord (encode i) = .ok i := by
  cases i with
  | cls | ret => rfl
  | jp | call | ldI | jpV0 =>
    simp [encode, decodeWord_op1, decodeWord_op2, decodeWord_opA, decodeWord_opB]
  | seImm | sneImm | ldImm | addImm | rnd =>
    simp [encode, decodeWord_op3, decodeWord_op4, decodeWord_op6, decodeWord_op7, decodeWord_opC]
  | seReg | sneReg | drw => simp [encode, decodeWord_op5, decodeWord_op9, decodeWord_opD]
  | ldReg | orReg | andReg | xorReg | addReg | subReg | shr | subnReg | shl =>
    simp [encode, decodeWord_op8, decode8_n0, decode8_n1, decode8_n2, decode8_n3, decode8_n4,
      decode8_n5, decode8_n6, decode8_n7, decode8_nE]
  | skp | sknp => simp [encode, decodeWord_opE, decodeE_kk9E, decodeE_kkA1]
  | ldVxDt | ldVxKey | ldDtVx | ldStVx | addI | ldFont | ldBcd | storeRegs | loadRegs =>
    simp [encode, decodeWord_opF, decodeF_kk07, decodeF_kk0A, decodeF_kk15, decodeF_kk18,
      decodeF_kk1E, decodeF_kk29, decodeF_kk33, decodeF_kk55, decodeF_kk65]

/-- The bytes of an instruction, high byte first, decode to it wherever they are followed by more bytes. -/
theorem decode_encodeBytes_append (i : Instr) (rest : List Byte) :
    decode (encodeBytes i ++ rest) = .ok (i, rest) := by
  simp [encodeBytes, bytesOfWord, decode, wordOfBytes_bytesOfWord]

/-- The family RowMatch covers every instruction. -/
theorem rowMatch : ∀ i : Instr, Laws.RowMatch.Statement i
  | .cls => Laws.RowMatch.cls
  | .ret => Laws.RowMatch.ret
  | .jp nnn => Laws.RowMatch.jp nnn
  | .call nnn => Laws.RowMatch.call nnn
  | .seImm x kk => Laws.RowMatch.seImm x kk
  | .sneImm x kk => Laws.RowMatch.sneImm x kk
  | .seReg x y => Laws.RowMatch.seReg x y
  | .ldImm x kk => Laws.RowMatch.ldImm x kk
  | .addImm x kk => Laws.RowMatch.addImm x kk
  | .ldReg x y => Laws.RowMatch.ldReg x y
  | .orReg x y => Laws.RowMatch.orReg x y
  | .andReg x y => Laws.RowMatch.andReg x y
  | .xorReg x y => Laws.RowMatch.xorReg x y
  | .addReg x y => Laws.RowMatch.addReg x y
  | .subReg x y => Laws.RowMatch.subReg x y
  | .shr x y => Laws.RowMatch.shr x y
  | .subnReg x y => Laws.RowMatch.subnReg x y
  | .shl x y => Laws.RowMatch.shl x y
  | .sneReg x y => Laws.RowMatch.sneReg x y
  | .ldI nnn => Laws.RowMatch.ldI nnn
  | .jpV0 nnn => Laws.RowMatch.jpV0 nnn
  | .rnd x kk => Laws.RowMatch.rnd x kk
  | .drw x y n => Laws.RowMatch.drw x y n
  | .skp x => Laws.RowMatch.skp x
  | .sknp x => Laws.RowMatch.sknp x
  | .ldVxDt x => Laws.RowMatch.ldVxDt x
  | .ldVxKey x => Laws.RowMatch.ldVxKey x
  | .ldDtVx x => Laws.RowMatch.ldDtVx x
  | .ldStVx x => Laws.RowMatch.ldStVx x
  | .addI x => Laws.RowMatch.addI x
  | .ldFont x => Laws.RowMatch.ldFont x
  | .ldBcd x => Laws.RowMatch.ldBcd x
  | .storeRegs x => Laws.RowMatch.storeRegs x
  | .loadRegs x => Laws.RowMatch.loadRegs x

theorem row_mem_opcodeMap (i : Instr) : i.row ∈ opcodeMap := by
  obtain ⟨-, hmem, -⟩ := rowMatch i
  exact hmem

theorem encode_masked (i : Instr) : encode i &&& i.row.mask = i.row.pattern := by
  obtain ⟨-, -, hmask⟩ := rowMatch i
  exact hmask

/-- Settles O1: the round trip of the word, the fixed digits of its row, the round trip of the bytes. -/
theorem decodeInvertsEncode : Obligations.DecodeInvertsEncode :=
  ⟨fun i _ => ⟨decodeWord_encode i, encode_masked i, decode_encodeBytes_append i⟩, rfl, rfl, rfl⟩

/-! ## Encoding a decoded instruction (30_encoding R53, R57) -/

section
variable {w : Word} {op n : Nibble} {kk : Byte}

theorem formatNNN_of_field (hop : fieldOP w = op) : formatNNN op (fieldNNN w) = w := by
  rw [← hop, ← word_eq_formatNNN]

theorem formatXKK_of_field (hop : fieldOP w = op) : formatXKK op (fieldX w) (fieldKK w) = w := by
  rw [← hop, ← word_eq_formatXKK]

theorem formatXKK_of_fields (hop : fieldOP w = op) (hkk : fieldKK w = kk) :
    formatXKK op (fieldX w) kk = w := by
  rw [← hkk, formatXKK_of_field hop]

theorem formatXYN_of_field (hop : fieldOP w = op) :
    formatXYN op (fieldX w) (fieldY w) (fieldN w) = w := by
  rw [← hop, ← word_eq_formatXYN]

theorem formatXYN_of_fields (hop : fieldOP w = op) (hn : fieldN w = n) :
    formatXYN op (fieldX w) (fieldY w) n = w := by
  rw [← hn, formatXYN_of_field hop]

end

/-- What decoding may answer for a word: an instruction whose word it is, or its rejection by name. -/
def Answers (w : Word) : Except Rejection Instr → Prop
  | .ok i => encode i = w
  | .error e => e = .unrecognized w

section
variable {w : Word}

theorem decode8_answers (hop : fieldOP w = 0x8) : Answers w (decode8 w) := by
  unfold decode8
  split
  case h_10 => rfl
  all_goals exact formatXYN_of_fields hop (BitVec.eq_of_toNat_eq ‹_›)

theorem decodeE_answers (hop : fieldOP w = 0xE) : Answers w (decodeE w) := by
  unfold decodeE
  split
  case h_3 => rfl
  all_goals exact formatXKK_of_fields hop (BitVec.eq_of_toNat_eq ‹_›)

theorem decodeF_answers (hop : fieldOP w = 0xF) : Answers w (decodeF w) := by
  unfold decodeF
  split
  case h_10 => rfl
  all_goals exact formatXKK_of_fields hop (BitVec.eq_of_toNat_eq ‹_›)

/-- The alternatives h_1 to h_16 are the high nibbles 0x0 to 0xF, in order. -/
theorem decodeWord_answers (w : Word) : Answers w (decodeWord w) := by
  have op_eq {k : Nibble} (h : (fieldOP w).toNat = k.toNat) : fieldOP w = k :=
    BitVec.eq_of_toNat_eq h
  unfold decodeWord
  split
  case h_1 =>
    split_ifs with hcls hret
    exacts [hcls.symm, hret.symm, rfl]
  case h_2 h | h_3 h | h_11 h | h_12 h => exact formatNNN_of_field (op_eq h)
  case h_4 h | h_5 h | h_7 h | h_8 h | h_13 h => exact formatXKK_of_field (op_eq h)
  case h_6 h | h_10 h =>
    split_ifs with hn
    exacts [formatXYN_of_fields (op_eq h) hn, rfl]
  case h_9 h => exact decode8_answers (op_eq h)
  case h_14 h => exact formatXYN_of_field (op_eq h)
  case h_15 h => exact decodeE_answers (op_eq h)
  case h_16 h => exact decodeF_answers (op_eq h)
  case h_17 => rfl

/-- A word is the word of the instruction it decodes to, or it is rejected by name. -/
theorem decodeWord_encode_or_unrecognized (w : Word) :
    (∃ i, decodeWord w = .ok i ∧ encode i = w) ∨ decodeWord w = .error (.unrecognized w) := by
  have h := decodeWord_answers w
  cases hd : decodeWord w with
  | ok i => exact .inl ⟨i, rfl, by rwa [hd] at h⟩
  | error e =>
    rw [hd] at h
    exact .inr (congrArg Except.error h)

end

/-! ## A word that selects a row is an instruction of that row (30_encoding R53) -/

section
variable {w : Word} {op n : Nibble} {kk : Byte}

/-- The high digit of a word is the high digit of every row it selects. -/
theorem fieldOP_of_masked (h : w &&& 0xF000 = formatNNN op 0) : fieldOP w = op := by
  rw [word_eq_formatNNN w, formatNNN_masked] at h
  simpa using congrArg fieldOP h

theorem formatXKK_of_masked (h : w &&& 0xF0FF = formatXKK op 0 kk) :
    formatXKK op (fieldX w) kk = w := by
  rw [word_eq_formatXKK w, formatXKK_masked] at h
  have hop : fieldOP w = op := by simpa using congrArg fieldOP h
  have hkk : fieldKK w = kk := by simpa using congrArg fieldKK h
  exact formatXKK_of_fields hop hkk

theorem formatXYN_of_masked (h : w &&& 0xF00F = formatXYN op 0 0 n) :
    formatXYN op (fieldX w) (fieldY w) n = w := by
  rw [word_eq_formatXYN w, formatXYN_masked] at h
  have hop : fieldOP w = op := by simpa using congrArg fieldOP h
  have hn : fieldN w = n := by simpa using congrArg fieldN h
  exact formatXYN_of_fields hop hn

/-- A word that selects the row of `i` is the word of an instruction of that row, with the operands the word's
own fields give. -/
theorem exists_encode_of_masked : ∀ i : Instr, w &&& i.row.mask = i.row.pattern →
    ∃ j : Instr, j.row = i.row ∧ encode j = w
  | .cls, h => ⟨.cls, rfl, h.symm.trans BitVec.and_allOnes⟩
  | .ret, h => ⟨.ret, rfl, h.symm.trans BitVec.and_allOnes⟩
  | .jp _, h => ⟨.jp (fieldNNN w), rfl, formatNNN_of_field (fieldOP_of_masked h)⟩
  | .call _, h => ⟨.call (fieldNNN w), rfl, formatNNN_of_field (fieldOP_of_masked h)⟩
  | .seImm _ _, h => ⟨.seImm (fieldX w) (fieldKK w), rfl, formatXKK_of_field (fieldOP_of_masked h)⟩
  | .sneImm _ _, h => ⟨.sneImm (fieldX w) (fieldKK w), rfl, formatXKK_of_field (fieldOP_of_masked h)⟩
  | .seReg _ _, h => ⟨.seReg (fieldX w) (fieldY w), rfl, formatXYN_of_masked h⟩
  | .ldImm _ _, h => ⟨.ldImm (fieldX w) (fieldKK w), rfl, formatXKK_of_field (fieldOP_of_masked h)⟩
  | .addImm _ _, h => ⟨.addImm (fieldX w) (fieldKK w), rfl, formatXKK_of_field (fieldOP_of_masked h)⟩
  | .ldReg _ _, h => ⟨.ldReg (fieldX w) (fieldY w), rfl, formatXYN_of_masked h⟩
  | .orReg _ _, h => ⟨.orReg (fieldX w) (fieldY w), rfl, formatXYN_of_masked h⟩
  | .andReg _ _, h => ⟨.andReg (fieldX w) (fieldY w), rfl, formatXYN_of_masked h⟩
  | .xorReg _ _, h => ⟨.xorReg (fieldX w) (fieldY w), rfl, formatXYN_of_masked h⟩
  | .addReg _ _, h => ⟨.addReg (fieldX w) (fieldY w), rfl, formatXYN_of_masked h⟩
  | .subReg _ _, h => ⟨.subReg (fieldX w) (fieldY w), rfl, formatXYN_of_masked h⟩
  | .shr _ _, h => ⟨.shr (fieldX w) (fieldY w), rfl, formatXYN_of_masked h⟩
  | .subnReg _ _, h => ⟨.subnReg (fieldX w) (fieldY w), rfl, formatXYN_of_masked h⟩
  | .shl _ _, h => ⟨.shl (fieldX w) (fieldY w), rfl, formatXYN_of_masked h⟩
  | .sneReg _ _, h => ⟨.sneReg (fieldX w) (fieldY w), rfl, formatXYN_of_masked h⟩
  | .ldI _, h => ⟨.ldI (fieldNNN w), rfl, formatNNN_of_field (fieldOP_of_masked h)⟩
  | .jpV0 _, h => ⟨.jpV0 (fieldNNN w), rfl, formatNNN_of_field (fieldOP_of_masked h)⟩
  | .rnd _ _, h => ⟨.rnd (fieldX w) (fieldKK w), rfl, formatXKK_of_field (fieldOP_of_masked h)⟩
  | .drw _ _ _, h => ⟨.drw (fieldX w) (fieldY w) (fieldN w), rfl, formatXYN_of_field (fieldOP_of_masked h)⟩
  | .skp _, h => ⟨.skp (fieldX w), rfl, formatXKK_of_masked h⟩
  | .sknp _, h => ⟨.sknp (fieldX w), rfl, formatXKK_of_masked h⟩
  | .ldVxDt _, h => ⟨.ldVxDt (fieldX w), rfl, formatXKK_of_masked h⟩
  | .ldVxKey _, h => ⟨.ldVxKey (fieldX w), rfl, formatXKK_of_masked h⟩
  | .ldDtVx _, h => ⟨.ldDtVx (fieldX w), rfl, formatXKK_of_masked h⟩
  | .ldStVx _, h => ⟨.ldStVx (fieldX w), rfl, formatXKK_of_masked h⟩
  | .addI _, h => ⟨.addI (fieldX w), rfl, formatXKK_of_masked h⟩
  | .ldFont _, h => ⟨.ldFont (fieldX w), rfl, formatXKK_of_masked h⟩
  | .ldBcd _, h => ⟨.ldBcd (fieldX w), rfl, formatXKK_of_masked h⟩
  | .storeRegs _, h => ⟨.storeRegs (fieldX w), rfl, formatXKK_of_masked h⟩
  | .loadRegs _, h => ⟨.loadRegs (fieldX w), rfl, formatXKK_of_masked h⟩

theorem exists_decodeWord_of_selects {r : OpcodeRow} (hr : r ∈ opcodeMap) (hs : r.selects w = true) :
    ∃ j : Instr, decodeWord w = .ok j ∧ j.row = r := by
  obtain ⟨i, -, rfl⟩ := List.mem_map.mp hr
  obtain ⟨j, hrow, rfl⟩ := exists_encode_of_masked i (eq_of_beq hs)
  exact ⟨j, decodeWord_encode j, hrow⟩

end

theorem row_selects_encode (i : Instr) : i.row.selects (encode i) = true :=
  beq_of_eq (encode_masked i)

/-- Settles O3: a word selects the row of the instruction it decodes to, and decodes to an instruction of every
row it selects; decoding being a function, the two rows are one. -/
theorem decodeSelectsTheOnlyRow : Obligations.DecodeSelectsTheOnlyRow := by
  intro w
  obtain ⟨i, hd, rfl⟩ | hd := decodeWord_encode_or_unrecognized w
  · refine .inl ⟨i, hd, row_mem_opcodeMap i, row_selects_encode i, fun r hr hs => ?_⟩
    obtain ⟨j, hj, rfl⟩ := exists_decodeWord_of_selects hr hs
    rw [Except.ok.inj (hd.symm.trans hj)]
  · refine .inr ⟨hd, fun r hr => Bool.eq_false_iff.mpr fun hs => ?_⟩
    obtain ⟨j, hj, -⟩ := exists_decodeWord_of_selects hr hs
    exact nomatch hd.symm.trans hj

end Sys2Proof
end

section
/-! PROOFS. Jumps and compare skips (40_flow R71, R73 to R77): each decodes from its format, completes in every
state and moves pc alone. -/

namespace Sys2Proof.Machine

/-! ## Where the jumps go (40_flow R71, R77) -/

@[simp] theorem targetOf_toNat (nnn : Addr) : (targetOf nnn).toNat = nnn.toNat :=
  BitVec.toNat_setWidth_of_le (by decide)

/-- NNN + V0 is at most 0x0FFF + 0xFF, so 16 bits hold the exact sum. -/
@[simp] theorem targetPlus_toNat (nnn : Addr) (v0 : Byte) :
    (targetPlus nnn v0).toNat = nnn.toNat + v0.toNat := by
  have hn : nnn.toNat < 0x1000 := nnn.isLt
  have hv : v0.toNat < 0x100 := v0.isLt
  simp only [targetPlus, BitVec.toNat_add, BitVec.toNat_setWidth]
  omega

@[simp] theorem jump_pc_self (s : State) : s.jump s.pc = s := rfl

theorem onlyPc_jump (s : State) (w : Word) : OnlyPc s (s.jump w) := ⟨rfl, fun _ => rfl⟩

/-! ## What the skips add to pc (40_flow R73 to R76) -/

theorem skipIf_beq_pc (s : State) (a b : Byte) :
    (s.skipIf (a == b)).pc = s.pc + (if a = b then 4 else 2) := by
  by_cases h : a = b <;> simp [h]

theorem skipIf_bne_pc (s : State) (a b : Byte) :
    (s.skipIf (a != b)).pc = s.pc + (if a = b then 2 else 4) := by
  by_cases h : a = b <;> simp [h]

theorem onlyPc_skipIf (s : State) (c : Bool) : OnlyPc s (s.skipIf c) := ⟨rfl, fun _ => rfl⟩

/-! ## What the instructions do -/

section
variable (nnn : Addr) (x y : Reg) (kk : Byte) (s : State)

theorem exec_jp : exec (.jp nnn) s = .next (s.jump (targetOf nnn)) := rfl

theorem exec_jpV0 : exec (.jpV0 nnn) s = .next (s.jump (targetPlus nnn (s.readV 0))) := rfl

theorem exec_seImm : exec (.seImm x kk) s = .next (s.skipIf (s.readV x == kk)) := rfl

theorem exec_sneImm : exec (.sneImm x kk) s = .next (s.skipIf (s.readV x != kk)) := rfl

theorem exec_seReg : exec (.seReg x y) s = .next (s.skipIf (s.readV x == s.readV y)) := rfl

theorem exec_sneReg : exec (.sneReg x y) s = .next (s.skipIf (s.readV x != s.readV y)) := rfl

/-- The endless loop of R71, for every address NNN: the bound of `exec_jp_self` is not needed. -/
theorem exec_jp_of_pc_eq (h : s.pc.toNat = nnn.toNat) : exec (.jp nnn) s = .next s := by
  have htarget : targetOf nnn = s.pc :=
    BitVec.eq_of_toNat_eq ((targetOf_toNat nnn).trans h.symm)
  rw [exec_jp, htarget, jump_pc_self]

end

/-! ## Words with a low nibble the register skips do not have (30_encoding R56) -/

section
variable {x y : Reg} {n : Nibble}

theorem decodeWord_formatXYN_op5_unrecognized (hn : n ≠ 0) :
    decodeWord (formatXYN 0x5 x y n) = .error (.unrecognized (formatXYN 0x5 x y n)) := by
  rw [decodeWord_op5 (fieldOP_formatXYN _ _ _ _), fieldN_formatXYN, if_neg hn]

theorem decodeWord_formatXYN_op9_unrecognized (hn : n ≠ 0) :
    decodeWord (formatXYN 0x9 x y n) = .error (.unrecognized (formatXYN 0x9 x y n)) := by
  rw [decodeWord_op9 (fieldOP_formatXYN _ _ _ _), fieldN_formatXYN, if_neg hn]

end

/-! ## The obligations -/

/-- Settles O26: the jump's target is NNN itself, so a state whose pc is NNN is left as it is. -/
theorem jumpGoesToNNN : Obligations.JumpGoesToNNN := fun nnn s =>
  ⟨decodeWord_encode (.jp nnn),
    ⟨s.jump (targetOf nnn), exec_jp nnn s, targetOf_toNat nnn, onlyPc_jump s _⟩,
    exec_jp_of_pc_eq nnn s⟩

/-- Settles O27: the sum fits pc's 16 bits and is not reduced. -/
theorem indexedJumpGoesToNNNPlusV0 : Obligations.IndexedJumpGoesToNNNPlusV0 := fun nnn s =>
  ⟨decodeWord_encode (.jpV0 nnn),
    s.jump (targetPlus nnn (s.readV 0)), exec_jpV0 nnn s, targetPlus_toNat nnn _, onlyPc_jump s _⟩

/-- Settles O31: the two byte skips are one skip on a comparison and on its negation. -/
theorem byteSkipsCompareVXWithKK : Obligations.ByteSkipsCompareVXWithKK := fun x kk s =>
  ⟨decodeWord_encode (.seImm x kk), decodeWord_encode (.sneImm x kk),
    ⟨s.skipIf (s.readV x == kk), exec_seImm x kk s, skipIf_beq_pc s _ _, onlyPc_skipIf s _⟩,
    ⟨s.skipIf (s.readV x != kk), exec_sneImm x kk s, skipIf_bne_pc s _ _, onlyPc_skipIf s _⟩⟩

/-- Settles O32: the register skips compare as the byte skips do; the words with another low nibble reach the
same dispatch and fail its test. -/
theorem registerSkipsCompareVXWithVY : Obligations.RegisterSkipsCompareVXWithVY :=
  ⟨fun x y s =>
    ⟨decodeWord_encode (.seReg x y), decodeWord_encode (.sneReg x y),
      ⟨s.skipIf (s.readV x == s.readV y), exec_seReg x y s, skipIf_beq_pc s _ _, onlyPc_skipIf s _⟩,
      ⟨s.skipIf (s.readV x != s.readV y), exec_sneReg x y s, skipIf_bne_pc s _ _, onlyPc_skipIf s _⟩⟩,
    fun _ _ _ hn =>
      ⟨decodeWord_formatXYN_op5_unrecognized hn, decodeWord_formatXYN_op9_unrecognized hn⟩⟩

end Sys2Proof.Machine
end

section
/-! PROOFS. Register load, arithmetic, logic and shift (41_alu R80 to R90, R93): each completes in every state, writes
its result to VX (the flag-setting ones their flag to VF after it) and moves pc by 2. -/

namespace Sys2Proof.Machine

/-! ## A register write and pc + 2 -/

section
variable (s : State) (x : Reg) (b : Byte) (f : Bool)

@[simp] theorem readV_advance : s.advance.readV x = s.readV x := rfl

theorem readV_writeV_advance : (s.writeV x b).advance.readV x = b := by
  rw [readV_advance, readV_writeV_same]

theorem onlyRegs_writeV_advance : OnlyRegs [x] s (s.writeV x b).advance := by
  refine ⟨rfl, fun r hr => ?_, fun _ => rfl⟩
  rw [readV_advance, readV_writeV, if_neg (Ne.symm (List.ne_of_not_mem_cons hr))]

theorem readV_writeWithFlag_regF : (s.writeWithFlag x b f).readV regF = flagByte f := by
  rw [readV_writeWithFlag, if_pos rfl]

theorem readV_writeWithFlag_of_ne (hx : x ≠ regF) : (s.writeWithFlag x b f).readV x = b := by
  rw [readV_writeWithFlag, if_neg hx, if_pos rfl]

/-- For every X, VF included. -/
theorem onlyRegs_writeWithFlag_advance : OnlyRegs [x, regF] s (s.writeWithFlag x b f).advance := by
  refine ⟨rfl, fun r hr => ?_, fun _ => rfl⟩
  obtain ⟨hrx, hrF⟩ : r ≠ x ∧ r ≠ regF := by simpa using hr
  rw [readV_advance, readV_writeWithFlag, if_neg hrF, if_neg hrx.symm]

end

/-! ## The results as exact integers (41_alu R92) -/

section
variable (a b : Byte)

/-- The borrow is one 256 lent to the minuend, so the difference is never negative. -/
theorem byte_sub_toNat : (a - b).toNat = (a.toNat + 256 - b.toNat) % 256 := by
  have hb : b.toNat < 256 := b.isLt
  rw [Nat.add_sub_assoc hb.le, BitVec.toNat_sub']

theorem byte_shiftRight_one_toNat : (a >>> 1).toNat = a.toNat / 2 := by
  rw [BitVec.toNat_ushiftRight, Nat.shiftRight_one]

theorem byte_shiftLeft_one_toNat : (a <<< 1).toNat = 2 * a.toNat % 256 := by
  rw [BitVec.toNat_shiftLeft, Nat.shiftLeft_eq, Nat.mul_comm]

/-! ## The flags as exact integers (41_alu R93) -/

theorem flagByte_decide_toNat (p : Prop) [Decidable p] :
    (flagByte (decide p)).toNat = if p then 1 else 0 := by
  by_cases h : p <;> simp [flagByte, h]

theorem flagByte_flagCarry_toNat :
    (flagByte (flagCarry a b)).toNat = if 255 < a.toNat + b.toNat then 1 else 0 :=
  flagByte_decide_toNat _

theorem flagByte_flagGreater_toNat :
    (flagByte (flagGreater a b)).toNat = if b.toNat < a.toNat then 1 else 0 :=
  flagByte_decide_toNat _

theorem flagByte_flagLowBit_toNat : (flagByte (flagLowBit a)).toNat = a.toNat % 2 := by
  rw [flagLowBit, flagByte_decide_toNat]
  split_ifs <;> omega

/-- A byte is below 256, so the quotient by 128 is 0 or 1. -/
theorem flagByte_flagHighBit_toNat : (flagByte (flagHighBit a)).toNat = a.toNat / 128 := by
  have ha : a.toNat < 256 := a.isLt
  rw [flagHighBit, flagByte_decide_toNat]
  split_ifs <;> omega

end

/-! ## What the instructions do -/

section
variable (x y : Reg) (kk : Byte) (s : State)

theorem exec_ldImm : exec (.ldImm x kk) s = .next (s.writeV x kk).advance := rfl

theorem exec_addImm : exec (.addImm x kk) s = .next (s.writeV x (s.readV x + kk)).advance := rfl

theorem exec_ldReg : exec (.ldReg x y) s = .next (s.writeV x (s.readV y)).advance := rfl

theorem exec_orReg :
    exec (.orReg x y) s = .next (s.writeV x (s.readV x ||| s.readV y)).advance := rfl

theorem exec_andReg :
    exec (.andReg x y) s = .next (s.writeV x (s.readV x &&& s.readV y)).advance := rfl

theorem exec_xorReg :
    exec (.xorReg x y) s = .next (s.writeV x (s.readV x ^^^ s.readV y)).advance := rfl

theorem exec_addReg : exec (.addReg x y) s =
    .next (s.writeWithFlag x (s.readV x + s.readV y) (flagCarry (s.readV x) (s.readV y))).advance :=
  rfl

theorem exec_subReg : exec (.subReg x y) s =
    .next (s.writeWithFlag x (s.readV x - s.readV y) (flagGreater (s.readV x) (s.readV y))).advance :=
  rfl

theorem exec_shr : exec (.shr x y) s =
    .next (s.writeWithFlag x (s.readV x >>> 1) (flagLowBit (s.readV x))).advance := rfl

theorem exec_subnReg : exec (.subnReg x y) s =
    .next (s.writeWithFlag x (s.readV y - s.readV x) (flagGreater (s.readV y) (s.readV x))).advance :=
  rfl

theorem exec_shl : exec (.shl x y) s =
    .next (s.writeWithFlag x (s.readV x <<< 1) (flagHighBit (s.readV x))).advance := rfl

end

section
variable {i : Instr} {s : State} {x : Reg} {b : Byte} {f : Bool}

/-- An instruction that writes one byte to VX: OR, AND and exclusive OR differ in the bits of that byte alone. -/
theorem completes_of_writeV_bits {bit : Nat → Bool} (hexec : exec i s = .next (s.writeV x b).advance)
    (hbit : ∀ k, b.getLsbD k = bit k) :
    ∃ t, exec i s = .next t ∧ t.pc = s.pc + 2 ∧ OnlyRegs [x] s t ∧
      ∀ k, (t.readV x).getLsbD k = bit k := by
  refine ⟨_, hexec, rfl, onlyRegs_writeV_advance s x b, fun k => ?_⟩
  rw [readV_writeV_advance, hbit]

/-- An instruction that writes a result and then its flag: with X other than 0xF both remain (10_state R12), and
the five of R93 differ in the two numbers alone. -/
theorem completes_of_writeWithFlag {result flag : Nat} (hx : x ≠ regF)
    (hexec : exec i s = .next (s.writeWithFlag x b f).advance)
    (hresult : b.toNat = result) (hflag : (flagByte f).toNat = flag) :
    ∃ t, exec i s = .next t ∧ t.pc = s.pc + 2 ∧ OnlyRegs [x, regF] s t ∧
      (t.readV x).toNat = result ∧ (t.readV regF).toNat = flag := by
  refine ⟨_, hexec, rfl, onlyRegs_writeWithFlag_advance s x b f, ?_, ?_⟩
  · rw [readV_advance, readV_writeWithFlag_of_ne s x b f hx, hresult]
  · rw [readV_advance, readV_writeWithFlag_regF, hflag]

end

/-! ## The obligations -/

/-- Settles O37: each of the five is a result and a flag of the old VX and VY, written in that order. -/
theorem flagSettingInstructionsGiveResultAndFlag :
    Obligations.FlagSettingInstructionsGiveResultAndFlag := by
  rintro x y s _ _ hx rfl rfl
  exact
    ⟨completes_of_writeWithFlag hx (exec_addReg x y s) (BitVec.toNat_add _ _)
        (flagByte_flagCarry_toNat _ _),
      completes_of_writeWithFlag hx (exec_subReg x y s) (byte_sub_toNat _ _)
        (flagByte_flagGreater_toNat _ _),
      completes_of_writeWithFlag hx (exec_shr x y s) (byte_shiftRight_one_toNat _)
        (flagByte_flagLowBit_toNat _),
      completes_of_writeWithFlag hx (exec_subnReg x y s) (byte_sub_toNat _ _)
        (flagByte_flagGreater_toNat _ _),
      completes_of_writeWithFlag hx (exec_shl x y s) (byte_shiftLeft_one_toNat _)
        (flagByte_flagHighBit_toNat _)⟩

/-- Settles O33: the write names VX alone, VF when X = 0xF. -/
theorem loadByteSetsVX : Obligations.LoadByteSetsVX := fun x kk s =>
  ⟨decodeWord_encode (.ldImm x kk), (s.writeV x kk).advance, exec_ldImm x kk s,
    readV_writeV_advance s x kk, rfl, onlyRegs_writeV_advance s x kk⟩

/-- Settles O34: byte addition is the sum modulo 256, and no flag is written. -/
theorem addByteWrapsWithoutFlag : Obligations.AddByteWrapsWithoutFlag := fun x kk s =>
  ⟨decodeWord_encode (.addImm x kk), (s.writeV x (s.readV x + kk)).advance, exec_addImm x kk s,
    by rw [readV_writeV_advance, BitVec.toNat_add], rfl, onlyRegs_writeV_advance s x _⟩

/-- Settles O35: the byte written to VX is the VY of the state before, X = Y included. -/
theorem moveCopiesVY : Obligations.MoveCopiesVY := fun x y s =>
  ⟨decodeWord_encode (.ldReg x y), (s.writeV x (s.readV y)).advance, exec_ldReg x y s,
    readV_writeV_advance s x _, rfl, onlyRegs_writeV_advance s x _⟩

/-- Settles O36: the three are one write to VX, of the byte whose bits are the operation's. -/
theorem logicalOperationsActBitByBit : Obligations.LogicalOperationsActBitByBit := fun x y s =>
  ⟨decodeWord_encode (.orReg x y), decodeWord_encode (.andReg x y), decodeWord_encode (.xorReg x y),
    completes_of_writeV_bits (exec_orReg x y s) fun _ => BitVec.getLsbD_or,
    completes_of_writeV_bits (exec_andReg x y s) fun _ => BitVec.getLsbD_and,
    completes_of_writeV_bits (exec_xorReg x y s) fun _ => BitVec.getLsbD_xor⟩

end Sys2Proof.Machine
end

section
/-! PROOFS. Loads of I that name no memory byte (42_index_memory R100, R102): each completes in every state, sets I
and moves pc by 2. -/

namespace Sys2Proof.Machine

/-! ## The glyph address (42_index_memory R102) -/

/-- At most 5 * 15 = 75, so 12 bits hold the exact product. -/
@[simp] theorem glyphAddr_toNat (a : Byte) : (glyphAddr a).toNat = 5 * (a.toNat % 16) := by
  have hlt : Config.fontBase + Config.glyphStride * (a.toNat % 16) < 2 ^ 12 := by
    simp only [Config.fontBase, Config.glyphStride]
    omega
  rw [glyphAddr, BitVec.toNat_ofNat, Nat.mod_eq_of_lt hlt, Nat.zero_add]

/-! ## What the instructions do -/

section
variable (nnn : Addr) (x : Reg) (s : State)

theorem exec_ldI : exec (.ldI nnn) s = .next ({ s with i := nnn } : State).advance := rfl

theorem exec_ldFont :
    exec (.ldFont x) s = .next ({ s with i := glyphAddr (s.readV x) } : State).advance := rfl

end

/-! ## The obligations -/

/-- Settles O41: I is set to NNN itself, with no test of the address. -/
theorem loadIndexSetsI : Obligations.LoadIndexSetsI := fun nnn s =>
  ⟨decodeWord_encode (.ldI nnn), ({ s with i := nnn } : State).advance, exec_ldI nnn s,
    rfl, rfl, rfl, fun _ => rfl⟩

/-- Settles O43: I is set to the glyph address of VX, which is a function of VX alone. -/
theorem fontAddressIsFiveTimesTheLowNibble : Obligations.FontAddressIsFiveTimesTheLowNibble :=
  fun x s =>
  ⟨decodeWord_encode (.ldFont x), ({ s with i := glyphAddr (s.readV x) } : State).advance,
    exec_ldFont x s, glyphAddr_toNat _, rfl, rfl, fun _ => rfl⟩

end Sys2Proof.Machine
end

section
/-! PROOFS. Clearing the screen (43_display R110): it completes in every state with a framebuffer that does not depend
on the one before. -/

namespace Sys2Proof.Machine

theorem exec_cls (s : State) :
    exec .cls s = .next ({ s with fb := Framebuffer.clear, dirty := true } : State).advance := rfl

/-- Settles O48: the new framebuffer is the cleared one, so DIRTY is set whether or not a pixel was on. -/
theorem clearScreenClearsEveryCell : Obligations.ClearScreenClearsEveryCell := fun s =>
  ⟨decodeWord_encode .cls, ({ s with fb := Framebuffer.clear, dirty := true } : State).advance,
    exec_cls s, pixel_clear, rfl, rfl, rfl, fun _ => rfl⟩

end Sys2Proof.Machine
end

section
/-! PROOFS. The timer instructions (44_keys_timers R122, R124, R125): each completes in every state, moves one byte
between VX and a timer and moves pc by 2. -/

namespace Sys2Proof.Machine

/-! ## What the instructions do -/

section
variable (x : Reg) (s : State)

theorem exec_ldVxDt : exec (.ldVxDt x) s = .next (s.writeV x s.dt).advance := rfl

theorem exec_ldDtVx : exec (.ldDtVx x) s = .next ({ s with dt := s.readV x } : State).advance := rfl

theorem exec_ldStVx : exec (.ldStVx x) s = .next ({ s with st := s.readV x } : State).advance := rfl

end

/-! ## The obligations -/

/-- Settles O53: the byte written to VX is DT, and a register write leaves DT as it is. -/
theorem readDelayTimerCopiesDT : Obligations.ReadDelayTimerCopiesDT := fun x s =>
  ⟨decodeWord_encode (.ldVxDt x), (s.writeV x s.dt).advance, exec_ldVxDt x s,
    readV_writeV_advance s x _, rfl, onlyRegs_writeV_advance s x _⟩

/-- Settles O55: each timer is set to VX itself, so SND, which is active while ST is not 0, tests VX after FX18. -/
theorem timersAreSetFromVX : Obligations.TimersAreSetFromVX := fun x s =>
  ⟨decodeWord_encode (.ldDtVx x), decodeWord_encode (.ldStVx x),
    ⟨({ s with dt := s.readV x } : State).advance, exec_ldDtVx x s, rfl, rfl, rfl, fun _ => rfl⟩,
    ⟨({ s with st := s.readV x } : State).advance, exec_ldStVx x s, rfl, rfl, snd_iff _, rfl,
      fun _ => rfl⟩⟩

end Sys2Proof.Machine
end

section
/-! PROOFS. What one instruction does, tabulated by state element: the frames of the whole-machine rules (10_state,
20_memory, 40_flow R79) say of one element which instructions reach it, so each is read off one table. -/

namespace Sys2Proof.Machine

/-! ## The tables -/

/-- The fatal error an instruction raises, with the checks in the order of 60_exceptions R138. -/
def State.faultOf (s : State) : Instr → Option ErrKind
  | .ret => if s.sp.val = 0 then some .stackUnderflow else none
  | .call _ => if s.sp.val = Config.stackDepth then some .stackOverflow else none
  | .drw x y n =>
    if s.spanFits n.toNat then
      if (s.drawCells x y n).any offGrid then some .frameBufferOutOfBounds else none
    else some .memoryOutOfBounds
  | .ldBcd _ => if s.spanFits 3 then none else some .memoryOutOfBounds
  | .storeRegs x | .loadRegs x => if s.spanFits (x.val + 1) then none else some .memoryOutOfBounds
  | _ => none

/-- The general registers after an instruction that raises nothing. -/
def State.vAfter (s : State) : Instr → Vector Byte 16
  | .ldImm x kk => (s.writeV x kk).v
  | .addImm x kk => (s.writeV x (s.readV x + kk)).v
  | .ldReg x y => (s.writeV x (s.readV y)).v
  | .orReg x y => (s.writeV x (s.readV x ||| s.readV y)).v
  | .andReg x y => (s.writeV x (s.readV x &&& s.readV y)).v
  | .xorReg x y => (s.writeV x (s.readV x ^^^ s.readV y)).v
  | .addReg x y =>
    (s.writeWithFlag x (s.readV x + s.readV y) (flagCarry (s.readV x) (s.readV y))).v
  | .subReg x y =>
    (s.writeWithFlag x (s.readV x - s.readV y) (flagGreater (s.readV x) (s.readV y))).v
  | .shr x _ => (s.writeWithFlag x (s.readV x >>> 1) (flagLowBit (s.readV x))).v
  | .subnReg x y =>
    (s.writeWithFlag x (s.readV y - s.readV x) (flagGreater (s.readV y) (s.readV x))).v
  | .shl x _ => (s.writeWithFlag x (s.readV x <<< 1) (flagHighBit (s.readV x))).v
  | .rnd x kk => (s.writeV x (s.ports.rnd &&& kk)).v
  | .drw x y n =>
    (s.writeV regF (flagByte ((s.drawCells x y n).any fun c => s.fb.pixel c.1 c.2))).v
  | .ldVxDt x => (s.writeV x s.dt).v
  | .addI x => (s.writeV regF (flagByte (flagIndexOverflow s.i (s.readV x)))).v
  | .loadRegs x => writeRegsFrom s.v 0 (s.mem.readBytes s.i.toNat (x.val + 1))
  | _ => s.v

/-- pc after an instruction that raises nothing. -/
def State.pcAfter (s : State) : Instr → Word
  | .ret => s.stackTop + 2
  | .jp nnn | .call nnn => targetOf nnn
  | .jpV0 nnn => targetPlus nnn (s.readV 0)
  | .seImm x kk => (s.skipIf (s.readV x == kk)).pc
  | .sneImm x kk => (s.skipIf (s.readV x != kk)).pc
  | .seReg x y => (s.skipIf (s.readV x == s.readV y)).pc
  | .sneReg x y => (s.skipIf (s.readV x != s.readV y)).pc
  | .skp x => (s.skipIf (s.keyDown (s.readV x))).pc
  | .sknp x => (s.skipIf (!s.keyDown (s.readV x))).pc
  | .ldVxKey _ => s.pc
  | _ => s.pc + 2

/-- I after an instruction that raises nothing. -/
def State.iAfter (s : State) : Instr → Addr
  | .ldI nnn => nnn
  | .addI x => s.i + (s.readV x).setWidth 12
  | .ldFont x => glyphAddr (s.readV x)
  | _ => s.i

/-- The stack entries after an instruction that raises nothing. -/
def State.stackAfter (s : State) : Instr → Vector Word 16
  | .call _ => s.push.stack
  | _ => s.stack

/-- SP after an instruction that raises nothing. -/
def State.spAfter (s : State) : Instr → Fin 17
  | .ret => s.pop.sp
  | .call _ => s.push.sp
  | _ => s.sp

/-- DT after an instruction that raises nothing. -/
def State.dtAfter (s : State) : Instr → Byte
  | .ldDtVx x => s.readV x
  | _ => s.dt

/-- ST after an instruction that raises nothing. -/
def State.stAfter (s : State) : Instr → Byte
  | .ldStVx x => s.readV x
  | _ => s.st

/-- Memory after an instruction that raises nothing. -/
def State.memAfter (s : State) : Instr → Memory
  | .ldBcd x => s.mem.writeBytes s.i.toNat (decimalDigits (s.readV x))
  | .storeRegs x => s.mem.writeBytes s.i.toNat (s.regsUpTo x)
  | _ => s.mem

/-- The framebuffer after an instruction that raises nothing. -/
def State.fbAfter (s : State) : Instr → Framebuffer
  | .cls => Framebuffer.clear
  | .drw x y n => s.fb.toggleAll (s.drawCells x y n)
  | _ => s.fb

/-- WAIT and WAITX after an instruction that raises nothing. -/
def State.waitAfter (s : State) : Instr → Bool × Reg
  | .ldVxKey x => (true, x)
  | _ => (s.wait, s.waitX)

/-- The state after an instruction that raises nothing: ERR and the model's own fields stay. -/
def State.after (s : State) (i : Instr) : State :=
  { s with
    v := s.vAfter i
    i := s.iAfter i
    pc := s.pcAfter i
    stack := s.stackAfter i
    sp := s.spAfter i
    dt := s.dtAfter i
    st := s.stAfter i
    mem := s.memAfter i
    fb := s.fbAfter i
    dirty := writesDisplay i || s.dirty
    wait := (s.waitAfter i).1
    waitX := (s.waitAfter i).2 }

/-! ## The tables are what `exec` does -/

section
variable (s : State) (nnn : Addr) (x y : Reg) (n : Nibble)

theorem faultOf_ret :
    s.faultOf .ret = if s.sp.val = 0 then some .stackUnderflow else none := rfl

theorem faultOf_call :
    s.faultOf (.call nnn) = if s.sp.val = 16 then some .stackOverflow else none := rfl

theorem faultOf_drw : s.faultOf (.drw x y n) =
    if s.spanFits n.toNat then
      if (s.drawCells x y n).any offGrid then some .frameBufferOutOfBounds else none
    else some .memoryOutOfBounds := rfl

theorem faultOf_ldBcd :
    s.faultOf (.ldBcd x) = if s.spanFits 3 then none else some .memoryOutOfBounds := rfl

theorem faultOf_storeRegs : s.faultOf (.storeRegs x) =
    if s.spanFits (x.val + 1) then none else some .memoryOutOfBounds := rfl

theorem faultOf_loadRegs : s.faultOf (.loadRegs x) =
    if s.spanFits (x.val + 1) then none else some .memoryOutOfBounds := rfl

end

/-- Every instruction answers a next state: the six that can raise split on their own checks, and the others are
their row of the tables. -/
theorem exec_eq (i : Instr) (s : State) :
    exec i s = .next ((s.faultOf i).elim (s.after i) fun k => s.raise k (encode i)) := by
  cases i with
  | ret =>
    rw [faultOf_ret]
    change execRet s = _
    unfold execRet
    split_ifs <;> rfl
  | call nnn =>
    rw [faultOf_call]
    change execCall nnn s = _
    unfold execCall
    split_ifs <;> rfl
  | drw x y n =>
    rw [faultOf_drw]
    change execDrw x y n s = _
    unfold execDrw State.drawSprite
    split_ifs <;> rfl
  | ldBcd x =>
    rw [faultOf_ldBcd]
    change Host.Outcome.next (s.storeAtI _ _) = _
    unfold State.storeAtI
    rw [decimalDigits_length]
    split_ifs <;> rfl
  | storeRegs x =>
    rw [faultOf_storeRegs]
    change Host.Outcome.next (s.storeAtI _ _) = _
    unfold State.storeAtI
    rw [regsUpTo_length]
    split_ifs <;> rfl
  | loadRegs x =>
    rw [faultOf_loadRegs]
    change execLoadRegs x s = _
    unfold execLoadRegs
    split_ifs <;> rfl
  | _ => rfl

section
variable {i : Instr} {s t : State} {k : ErrKind}

theorem exec_of_faultOf_none (h : s.faultOf i = none) : exec i s = .next (s.after i) := by
  rw [exec_eq, h]
  rfl

theorem exec_of_faultOf_some (h : s.faultOf i = some k) :
    exec i s = .next (s.raise k (encode i)) := by
  rw [exec_eq, h]
  rfl

/-- Everything an instruction can do: complete, with the tables' state, or raise, with ERR and DIAG alone
changed (60_exceptions R136). -/
theorem exec_cases (h : exec i s = .next t) :
    (s.faultOf i = none ∧ t = s.after i) ∨
      ∃ k, s.faultOf i = some k ∧ t = s.raise k (encode i) := by
  cases hf : s.faultOf i with
  | none => exact .inl ⟨rfl, Host.Outcome.next.inj (h.symm.trans (exec_of_faultOf_none hf))⟩
  | some k => exact .inr ⟨k, rfl, Host.Outcome.next.inj (h.symm.trans (exec_of_faultOf_some hf))⟩

theorem fatalEntry_raise (s : State) (k : ErrKind) (w : Word) : FatalEntry k w s (s.raise k w) := rfl

end

end Sys2Proof.Machine
end

section
/-! PROOFS. What one host operation does (00_scope R4, 30_encoding R58): the Step's branches, each as a rule, and the
relation that lists them all. -/

namespace Sys2Proof.Machine

/-! ## The branches of a Step -/

section
variable {s s₀ t : State}

theorem stepSampled_of_latched (he : s.err ≠ none) : stepSampled s = .next s := by
  rw [stepSampled, if_pos (Option.isSome_iff_ne_none.mpr he)]

theorem stepSampled_of_wait (he : s.err = none) (hw : s.wait = true) :
    stepSampled s = .next s.pollKey := by
  simp [stepSampled, he, hw]

theorem stepSampled_of_pc_gt (he : s.err = none) (hw : s.wait = false) (hpc : 0x0FFE < s.pc.toNat) :
    stepSampled s = .next (s.raise .memoryOutOfBounds 0) := by
  have hfetch : s.canFetch = false := decide_eq_false (by omega)
  simp [stepSampled, he, hw, hfetch]

theorem stepSampled_of_unrecognized {e : Rejection} (hf : Fetches s)
    (hd : decodeWord s.fetchWord = .error e) :
    stepSampled s = .next (s.reportUnknown s.fetchWord) := by
  obtain ⟨he, hw, hpc⟩ := hf
  have hfetch : s.canFetch = true := decide_eq_true hpc
  simp [stepSampled, he, hw, hfetch, hd]

theorem step_of_pending {op : HostOp} {ops : List HostOp} (hp : s.pending = op :: ops) :
    step s = hostOp op { s with pending := ops } := by
  rw [step, nextOperation, hp]

/-- A Step's sample touches only the model's own fields, so every state element of the sampled state is the
old one's (10_state R24). -/
theorem eq_sampled_of_stepFrom (h : StepFrom s s₀) :
    ∃ ports ix ops, s₀ = { s with ports := ports, sampleIx := ix, pending := ops } := by
  obtain ⟨-, rfl⟩ | ⟨p, ops, -, rfl⟩ := h
  exacts [⟨_, _, _, rfl⟩, ⟨_, _, _, rfl⟩]

theorem stepFrom_mem (h : StepFrom s s₀) : s₀.mem = s.mem := by
  obtain ⟨_, _, _, rfl⟩ := eq_sampled_of_stepFrom h; rfl

theorem stepFrom_dirty (h : StepFrom s s₀) : s₀.dirty = s.dirty := by
  obtain ⟨_, _, _, rfl⟩ := eq_sampled_of_stepFrom h; rfl

theorem stepFrom_dt (h : StepFrom s s₀) : s₀.dt = s.dt := by
  obtain ⟨_, _, _, rfl⟩ := eq_sampled_of_stepFrom h; rfl

theorem stepFrom_err (h : StepFrom s s₀) : s₀.err = s.err := by
  obtain ⟨_, _, _, rfl⟩ := eq_sampled_of_stepFrom h; rfl

theorem stepFrom_diag (h : StepFrom s s₀) : s₀.diag = s.diag := by
  obtain ⟨_, _, _, rfl⟩ := eq_sampled_of_stepFrom h; rfl

theorem stepFrom_flowBounded (h : StepFrom s s₀) (hs : s.FlowBounded) : s₀.FlowBounded := by
  obtain ⟨_, _, _, rfl⟩ := eq_sampled_of_stepFrom h; exact hs

end

/-! ## Everything a host operation can do -/

/-- The states one operation can lead to from `s`: those of a Step on its sampled state `s₀`, and those of the other
four operations. -/
inductive StepsTo (s : State) : State → Prop
  | latched {s₀} : StepFrom s s₀ → s₀.err ≠ none → StepsTo s s₀
  | polled {s₀} : StepFrom s s₀ → s₀.err = none → s₀.wait = true → StepsTo s s₀.pollKey
  | fetchRaised {s₀} : StepFrom s s₀ → s₀.err = none → s₀.wait = false → 0x0FFE < s₀.pc.toNat →
      StepsTo s (s₀.raise .memoryOutOfBounds 0)
  | reported {s₀ e} : StepFrom s s₀ → Fetches s₀ → decodeWord s₀.fetchWord = .error e →
      StepsTo s (s₀.reportUnknown s₀.fetchWord)
  | raised {s₀ i k} : StepFrom s s₀ → Fetches s₀ → decodeWord s₀.fetchWord = .ok i →
      s₀.faultOf i = some k → StepsTo s (s₀.raise k (encode i))
  | executed {s₀ i} : StepFrom s s₀ → Fetches s₀ → decodeWord s₀.fetchWord = .ok i →
      s₀.faultOf i = none → StepsTo s (s₀.after i)
  | reset {rom ops} : s.pending = .reset rom :: ops →
      StepsTo s (State.resetWith { s with pending := ops } rom)
  | ticked {ops} : s.pending = .timerTick :: ops →
      StepsTo s (State.timerTick { s with pending := ops })
  | cleared {ops} : s.pending = .clearDirty :: ops →
      StepsTo s (State.clearDirty { s with pending := ops })
  | frameRead {ops} : s.pending = .readFrame :: ops → StepsTo s { s with pending := ops }

section
variable {s s₀ t : State}

/-- A Step answers a next state, by the branch of 30_encoding R58 its sampled state is in. -/
theorem stepsTo_of_stepFrom (h : StepFrom s s₀) : ∃ t, step s = .next t ∧ StepsTo s t := by
  rw [step_of_stepFrom h]
  obtain ⟨he, hs⟩ | ⟨he, hw, hs⟩ | ⟨he, hw, hpc, hs⟩ | ⟨he, hw, hpc, ⟨i, hd, hs⟩ | ⟨e, hd, hs⟩⟩ :=
    stepSampled_cases s₀
  · exact ⟨_, hs, .latched h he⟩
  · exact ⟨_, hs, .polled h he hw⟩
  · exact ⟨_, hs, .fetchRaised h he hw hpc⟩
  · cases hf : s₀.faultOf i with
    | none => exact ⟨_, hs.trans (exec_of_faultOf_none hf), .executed h ⟨he, hw, hpc⟩ hd hf⟩
    | some k => exact ⟨_, hs.trans (exec_of_faultOf_some hf), .raised h ⟨he, hw, hpc⟩ hd hf⟩
  · exact ⟨_, hs, .reported h ⟨he, hw, hpc⟩ hd⟩

theorem exists_step_stepsTo (s : State) : ∃ t, step s = .next t ∧ StepsTo s t := by
  obtain ⟨hp, -⟩ | ⟨op, ops, hp, hs⟩ := step_cases s
  · exact stepsTo_of_stepFrom (.inl ⟨hp, rfl⟩)
  · cases op with
    | reset rom => exact ⟨_, hs, .reset hp⟩
    | step p => exact stepsTo_of_stepFrom (.inr ⟨p, ops, hp, rfl⟩)
    | timerTick => exact ⟨_, hs, .ticked hp⟩
    | clearDirty => exact ⟨_, hs, .cleared hp⟩
    | readFrame => exact ⟨_, hs, .frameRead hp⟩

/-- The relation lists what `step` answers and nothing else. -/
theorem step_eq_next_iff : step s = .next t ↔ StepsTo s t := by
  constructor
  · intro h
    obtain ⟨u, hu, hsu⟩ := exists_step_stepsTo s
    rwa [Host.Outcome.next.inj (h.symm.trans hu)]
  · intro h
    cases h with
    | latched hf he => rw [step_of_stepFrom hf, stepSampled_of_latched he]
    | polled hf he hw => rw [step_of_stepFrom hf, stepSampled_of_wait he hw]
    | fetchRaised hf he hw hpc => rw [step_of_stepFrom hf, stepSampled_of_pc_gt he hw hpc]
    | reported hf hfe hd => rw [step_of_stepFrom hf, stepSampled_of_unrecognized hfe hd]
    | raised hf hfe hd hk =>
      rw [step_of_stepFrom hf, stepSampled_of_fetches hfe hd, exec_of_faultOf_some hk]
    | executed hf hfe hd hk =>
      rw [step_of_stepFrom hf, stepSampled_of_fetches hfe hd, exec_of_faultOf_none hk]
    | reset hp | ticked hp | cleared hp | frameRead hp => exact step_of_pending hp

end

/-- Settles O10: the relation gives every state a successor. -/
theorem everyOperationAnswersANextState : Obligations.EveryOperationAnswersANextState := fun s =>
  (exists_step_stepsTo s).imp fun _ h => h.1

end Sys2Proof.Machine
end

section
/-! PROOFS. The two invariants: memory stays canonical (20_memory R30, R33), and pc, the key wait and the return
addresses stay bounded (10_state R15, 20_memory R34, 40_flow R70). -/

namespace Sys2Proof.Machine

section
variable {s : State} {i : Instr}

/-! ## Memory -/

theorem memAfter_wf (h : s.mem.wf) (i : Instr) : (s.memAfter i).wf := by
  cases i with
  | ldBcd | storeRegs => exact memory_wf_writeBytes h _ _
  | _ => exact h

/-- Settles O11: memory changes only by consecutive writes, of a store or of the ROM, and a write keeps the form. -/
theorem everyOperationKeepsMemoryCanonical : Obligations.EveryOperationKeepsMemoryCanonical := by
  intro s t hs h
  unfold State.MemoryCanonical at hs ⊢
  cases step_eq_next_iff.mp h with
  | latched hf | fetchRaised hf | reported hf | raised hf => exact (stepFrom_mem hf).symm ▸ hs
  | polled hf => rw [State.pollKey_mem, stepFrom_mem hf]; exact hs
  | executed hf => exact memAfter_wf ((stepFrom_mem hf).symm ▸ hs) _
  | reset => exact afterReset_memory_wf _
  | ticked => rw [State.timerTick_mem]; exact hs
  | cleared | frameRead => exact hs

/-! ## pc, the key wait and the return addresses -/

theorem word_add_toNat_le {a : Word} {n : Nat} (ha : a.toNat ≤ n) (b : Word) :
    (a + b).toNat ≤ n + b.toNat :=
  (BitVec.toNat_add a b ▸ Nat.mod_le _ _).trans (Nat.add_le_add_right ha _)

theorem advance_pc_toNat_le (hpc : s.pc.toNat ≤ 0x0FFE) : (s.pc + 2).toNat ≤ 0x1000 :=
  word_add_toNat_le hpc 2

theorem skipIf_pc_toNat_le (hpc : s.pc.toNat ≤ 0x0FFE) (c : Bool) :
    (s.skipIf c).pc.toNat ≤ 0x1002 := by
  rw [State.skipIf_pc]
  split_ifs
  · exact word_add_toNat_le hpc 4
  · exact (advance_pc_toNat_le hpc).trans (by decide)

theorem targetOf_toNat_le (nnn : Addr) : (targetOf nnn).toNat ≤ 0x0FFF := by
  rw [targetOf_toNat]
  exact Nat.le_of_lt_succ nnn.isLt

/-- The largest pc there is: BFFF with V0 = 0xFF (40_flow R77). -/
theorem targetPlus_toNat_le (nnn : Addr) (v0 : Byte) : (targetPlus nnn v0).toNat ≤ 0x10FE := by
  rw [targetPlus_toNat]
  exact Nat.add_le_add (Nat.le_of_lt_succ nnn.isLt) (Nat.le_of_lt_succ v0.isLt)

theorem push_sp_val (h : s.sp.val < 16) : s.push.sp.val = s.sp.val + 1 :=
  Fin.val_add_one_of_lt (Fin.lt_def.mpr h)

theorem pop_sp_val (h : 0 < s.sp.val) : s.pop.sp.val + 1 = s.sp.val := by
  have hsub : s.pop.sp.val = s.sp.val - 1 := Fin.val_sub_one_of_ne_zero (Fin.pos_iff_ne_zero.mp h)
  omega

theorem push_stack_getElem (s : State) (k : Fin 16) :
    s.push.stack[k.val] = if k.val = s.sp.val then s.pc else s.stack[k.val] := by
  simp [Vector.getElem_setIfInBounds, eq_comm]

theorem sp_pos_of_faultOf_ret (h : s.faultOf .ret = none) : 0 < s.sp.val := by
  rw [faultOf_ret] at h
  exact Nat.pos_of_ne_zero fun h0 => by simp [h0] at h

theorem sp_lt_of_faultOf_call {nnn : Addr} (h : s.faultOf (.call nnn) = none) : s.sp.val < 16 := by
  rw [faultOf_call] at h
  have hne : s.sp.val ≠ 16 := fun h16 => by simp [h16] at h
  omega

theorem stackTop_toNat_le (hs : s.FlowBounded) (hsp : 0 < s.sp.val) : s.stackTop.toNat ≤ 0x0FFE := by
  obtain ⟨-, -, hstack⟩ := hs
  exact hstack ⟨s.sp.val - 1, by omega⟩ (by simp only; omega)

theorem pcAfter_toNat_le (hs : s.FlowBounded) (hpc : s.pc.toNat ≤ 0x0FFE) (hf : s.faultOf i = none) :
    (s.pcAfter i).toNat ≤ 0x10FE := by
  cases i with
  | ret =>
    have htop := stackTop_toNat_le hs (sp_pos_of_faultOf_ret hf)
    exact (word_add_toNat_le htop 2).trans (by decide)
  | jp nnn | call nnn => exact (targetOf_toNat_le nnn).trans (by decide)
  | jpV0 nnn => exact targetPlus_toNat_le nnn _
  | seImm | sneImm | seReg | sneReg | skp | sknp =>
    exact (skipIf_pc_toNat_le hpc _).trans (by decide)
  | ldVxKey => exact hpc.trans (by decide)
  | _ => exact (advance_pc_toNat_le hpc).trans (by decide)

/-- The one instruction that begins a key wait holds pc (44_keys_timers R123). -/
theorem pcAfter_of_waitAfter (hw : s.wait = false) (h : (s.waitAfter i).1 = true) :
    s.pcAfter i = s.pc := by
  cases i with
  | ldVxKey => rfl
  | _ => exact absurd h (by simp [State.waitAfter, hw])

/-- Only a call puts an entry in use, and that entry is the pc it was fetched from. -/
theorem stackAfter_toNat_le (hs : s.FlowBounded) (hpc : s.pc.toNat ≤ 0x0FFE)
    (hf : s.faultOf i = none) (k : Fin 16) (hk : k.val < (s.spAfter i).val) :
    (s.stackAfter i)[k.val].toNat ≤ 0x0FFE := by
  obtain ⟨-, -, hstack⟩ := hs
  cases i with
  | call nnn =>
    have hsp : (s.spAfter (.call nnn)).val = s.sp.val + 1 := push_sp_val (sp_lt_of_faultOf_call hf)
    change s.push.stack[k.val].toNat ≤ _
    rw [push_stack_getElem]
    split_ifs with heq
    · exact hpc
    · exact hstack k (by omega)
  | ret =>
    have hsp : (s.spAfter .ret).val + 1 = s.sp.val := pop_sp_val (sp_pos_of_faultOf_ret hf)
    exact hstack k (by omega)
  | _ => exact hstack k hk

theorem after_flowBounded (hs : s.FlowBounded) (hfe : Fetches s) (hf : s.faultOf i = none) :
    (s.after i).FlowBounded := by
  obtain ⟨-, hw, hpc⟩ := hfe
  refine ⟨pcAfter_toNat_le hs hpc hf, fun h => ?_, stackAfter_toNat_le hs hpc hf⟩
  exact (congrArg BitVec.toNat (pcAfter_of_waitAfter hw h)).trans_le hpc

theorem pollKey_flowBounded (hs : s.FlowBounded) (hw : s.wait = true) : s.pollKey.FlowBounded := by
  obtain ⟨-, hwait, hstack⟩ := id hs
  obtain ⟨-, hp⟩ | ⟨k, -, hp⟩ := pollKey_cases s
  · exact hp.symm ▸ hs
  · rw [hp]
    exact ⟨(advance_pc_toNat_le (hwait hw)).trans (by decide), nofun, hstack⟩

theorem reportUnknown_flowBounded (hs : s.FlowBounded) (hfe : Fetches s) (w : Word) :
    (s.reportUnknown w).FlowBounded := by
  obtain ⟨-, hw, hpc⟩ := hfe
  obtain ⟨-, -, hstack⟩ := hs
  exact ⟨(advance_pc_toNat_le hpc).trans (by decide), fun h => absurd (hw.symm.trans h) nofun, hstack⟩

theorem reset_flowBounded : State.reset.FlowBounded :=
  ⟨by decide, nofun, fun _ hk => absurd hk (Nat.not_lt_zero _)⟩

/-- A Reset leaves pc, WAIT, SP and the stack as State.reset has them, whatever the ROM. -/
theorem afterReset_flowBounded (rom : List Byte) : (State.afterReset rom).FlowBounded := by
  unfold State.afterReset
  split_ifs <;> exact reset_flowBounded

end

/-- Settles O12: the bound on pc follows from the other two, since an instruction is fetched at most at 0x0FFE and a
return goes to an address a call was fetched from. -/
theorem everyOperationKeepsFlowBounded : Obligations.EveryOperationKeepsFlowBounded := by
  intro s t hs h
  cases step_eq_next_iff.mp h with
  | latched hf | fetchRaised hf | raised hf => exact (stepFrom_flowBounded hf hs :)
  | polled hf _ hw => exact pollKey_flowBounded (stepFrom_flowBounded hf hs) hw
  | reported hf hfe => exact reportUnknown_flowBounded (stepFrom_flowBounded hf hs) hfe _
  | executed hf hfe _ hk => exact after_flowBounded (stepFrom_flowBounded hf hs) hfe hk
  | reset => exact afterReset_flowBounded _
  | ticked =>
    unfold State.timerTick
    split_ifs <;> exact hs
  | cleared | frameRead => exact hs

/-! ## Every run from reset -/

/-- Settles O13: nothing is stored, nothing is in use, and pc is 0x200. -/
theorem resetMeetsTheInvariants : Obligations.ResetMeetsTheInvariants :=
  ⟨reset_memory_wf, reset_flowBounded⟩

/-- A run of any length never stops and keeps what its first state meets. -/
theorem run_keeps_invariants (k : Nat) {s : State} (hm : s.MemoryCanonical) (hf : s.FlowBounded) :
    ∃ t : State, core.run k s = .next t ∧ t.MemoryCanonical ∧ t.FlowBounded := by
  induction k generalizing s with
  | zero => exact ⟨s, rfl, hm, hf⟩
  | succ k ih =>
    obtain ⟨t, ht⟩ := everyOperationAnswersANextState s
    rw [core_run_succ k ht]
    exact ih (everyOperationKeepsMemoryCanonical s t hm ht) (everyOperationKeepsFlowBounded s t hf ht)

/-- Settles O14: a queue of host operations changes neither invariant of State.reset. -/
theorem everyScheduleKeepsTheInvariants : Obligations.EveryScheduleKeepsTheInvariants :=
  fun _ k => run_keeps_invariants k reset_memory_wf reset_flowBounded

end Sys2Proof.Machine
end

section
/-! PROOFS. The Step's branches as statements of their own (30_encoding R58, 60_exceptions R136, R151), and the
host's two display operations (R147). -/

namespace Sys2Proof.Machine

/-- Settles O5: a fetch with no error and no key wait in its way runs what it decodes. -/
theorem stepRunsDecodedInstruction : Obligations.StepRunsDecodedInstruction :=
  fun _ _ _ hs hf hd => (step_of_stepFrom hs).trans (stepSampled_of_fetches hf hd)

/-- Settles O6: the report is one event and pc + 2. -/
theorem unrecognizedWordIsReportedAndSkipped : Obligations.UnrecognizedWordIsReportedAndSkipped := by
  rintro s s₀ _ hs hf rfl hd
  exact (step_of_stepFrom hs).trans (stepSampled_of_unrecognized hf hd)

/-- Settles O7: the bound is tested before any byte is read, so the event's word is 0. -/
theorem fetchBeyondMemoryRaises : Obligations.FetchBeyondMemoryRaises := fun _ s₀ hs he hw hpc =>
  ⟨_, (step_of_stepFrom hs).trans (stepSampled_of_pc_gt he hw hpc), fatalEntry_raise s₀ _ _⟩

/-- Settles O8: the poll writes one register, and a 4-bit code fits it. -/
theorem keyWaitPollsTheEventPort : Obligations.KeyWaitPollsTheEventPort := by
  intro s s₀ hs he hw
  refine ⟨s₀.pollKey, (step_of_stepFrom hs).trans (stepSampled_of_wait he hw), fun hk => ?_,
    fun k hk => ?_⟩
  · rw [State.pollKey, hk]
  · have hpoll : s₀.pollKey =
        State.advance { s₀.writeV s₀.waitX (k.setWidth 8) with wait := false } := by
      rw [State.pollKey, hk]
    obtain ⟨-, hregs, hmem⟩ := onlyRegs_writeV_advance s₀ s₀.waitX (k.setWidth 8)
    rw [hpoll]
    refine ⟨?_, rfl, rfl, hregs, hmem, rfl⟩
    exact (congrArg BitVec.toNat (readV_writeV_advance s₀ s₀.waitX _)).trans
      (BitVec.toNat_setWidth_of_le (by decide))

section
variable {s : State} {ops : List HostOp}

theorem step_readFrame (hp : s.pending = .readFrame :: ops) : step s = .next { s with pending := ops } :=
  step_of_pending hp

theorem step_clearDirty (hp : s.pending = .clearDirty :: ops) :
    step s = .next { s with pending := ops, dirty := false } :=
  step_of_pending hp

theorem timerTick_of_latched (he : s.err ≠ none) : s.timerTick = s :=
  if_pos (Option.isSome_iff_ne_none.mpr he)

theorem timerTick_of_running (he : s.err = none) :
    s.timerTick = { s with dt := tickDown s.dt, st := tickDown s.st } :=
  if_neg (by simp [he])

end

/-- Settles O9: a Step samples its ports and stops there, a tick is refused, and the display operations do not look
at ERR. -/
theorem latchedErrorFreezesTheCore : Obligations.LatchedErrorFreezesTheCore := by
  intro s he
  refine ⟨fun s₀ hs => ?_, fun ops hp => ?_, fun _ => step_readFrame, fun _ => step_clearDirty⟩
  · obtain ⟨_, _, _, rfl⟩ := eq_sampled_of_stepFrom hs
    exact ⟨_, (step_of_stepFrom hs).trans (stepSampled_of_latched he), rfl, rfl⟩
  · have htick : State.timerTick { s with pending := ops } = { s with pending := ops } :=
      timerTick_of_latched he
    exact (step_of_pending hp).trans (congrArg Host.Outcome.next htick)

/-- Settles O57: the frame is read off the state, and the two operations do not look at ERR or WAIT. -/
theorem readFrameShowsAndClearDirtyClears : Obligations.ReadFrameShowsAndClearDirtyClears :=
  fun _ _ => ⟨⟨rfl, rfl, rfl, fun _ _ => rfl⟩, step_readFrame, step_clearDirty⟩

/-- Settles O56: a tick counts both timers down unless an error is latched; WAIT plays no part. -/
theorem timerTickCountsDown : Obligations.TimerTickCountsDown := by
  intro s ops hp
  by_cases he : s.err = none
  · refine ⟨{ s with dt := tickDown s.dt, st := tickDown s.st, pending := ops },
      (step_of_pending hp).trans (congrArg Host.Outcome.next (timerTick_of_running he)), rfl,
      fun _ => ⟨tickDown_toNat _, tickDown_toNat _⟩, fun hne => absurd he hne⟩
  · refine ⟨{ s with pending := ops },
      (step_of_pending hp).trans (congrArg Host.Outcome.next (timerTick_of_latched he)), rfl,
      fun h => absurd h he, fun _ => ⟨rfl, rfl⟩⟩

end Sys2Proof.Machine
end

section
/-! PROOFS. Rules over every host operation: the latch (60_exceptions R137, R151), DIRTY (R147), DT
(70_reset_and_hazards R167) and DIAG (10_state R23). -/

namespace Sys2Proof.Machine

theorem not_fetches_of_err {s : State} {k : ErrKind} (h : s.err = some k) : ¬Fetches s :=
  fun ⟨he, _⟩ => nomatch h.symm.trans he

/-- Settles O15: a Step with ERR latched ends at its first test, and no other operation but Reset reaches ERR. -/
theorem onlyResetClearsALatchedError : Obligations.OnlyResetClearsALatchedError := by
  intro s t k he h hreset
  have latched {s₀ : State} (hf : StepFrom s s₀) : s₀.err = some k := (stepFrom_err hf).trans he
  cases step_eq_next_iff.mp h with
  | latched hf => exact latched hf
  | polled hf hnone | fetchRaised hf hnone => exact nomatch (latched hf).symm.trans hnone
  | reported hf hfe | raised hf hfe | executed hf hfe =>
    exact absurd hfe (not_fetches_of_err (latched hf))
  | reset hp => exact absurd hp (hreset _ _)
  | ticked => rw [State.timerTick_err]; exact he
  | cleared | frameRead => exact he

/-- Settles O17: an instruction only ever sets DIRTY. -/
theorem onlyTheHostClearsDirty : Obligations.OnlyTheHostClearsDirty := by
  intro s t hs h hclear hreset
  have dirty {s₀ : State} (hf : StepFrom s s₀) : s₀.dirty = true := (stepFrom_dirty hf).trans hs
  cases step_eq_next_iff.mp h with
  | latched hf | fetchRaised hf | reported hf | raised hf => exact (dirty hf :)
  | polled hf => rw [State.pollKey_dirty, dirty hf]
  | executed hf => exact Bool.or_eq_true_iff.mpr (.inr (dirty hf))
  | reset hp => exact absurd hp (hreset _ _)
  | cleared hp => exact absurd hp (hclear _)
  | ticked => rw [State.timerTick_dirty]; exact hs
  | frameRead => exact hs

theorem afterReset_dt (rom : List Byte) : (State.afterReset rom).dt = 0 := by
  unfold State.afterReset
  split_ifs <;> rfl

theorem timerTick_dt_toNat_le (s : State) : s.timerTick.dt.toNat ≤ s.dt.toNat := by
  unfold State.timerTick
  split_ifs
  · exact le_refl _
  · exact (tickDown_toNat s.dt).trans_le (Nat.sub_le _ _)

/-- Settles O23: of the instructions FX15 alone writes DT, and the host's operations count it down or clear it. -/
theorem delayTimerIncreasesOnlyByFX15 : Obligations.DelayTimerIncreasesOnlyByFX15 := by
  intro s t h
  have dt_le {s₀ : State} (hf : StepFrom s s₀) : s₀.dt.toNat ≤ s.dt.toNat := by rw [stepFrom_dt hf]
  cases step_eq_next_iff.mp h with
  | latched hf | fetchRaised hf | reported hf | raised hf => exact .inl (dt_le hf :)
  | polled hf => rw [State.pollKey_dt]; exact .inl (dt_le hf)
  | @executed s₀ i hf hfe hd =>
    cases i with
    | ldDtVx x => exact .inr ⟨s₀, x, hf, hfe, hd⟩
    | _ => exact .inl (dt_le hf :)
  | reset => rw [State.resetWith_dt, afterReset_dt]; exact .inl (Nat.zero_le _)
  | ticked => exact .inl (timerTick_dt_toNat_le _)
  | cleared | frameRead => exact .inl (le_refl _)

/-! ## DIAG -/

section
variable {s s₀ t : State} (d : List DiagEvent)

theorem stepFrom_setDiag (h : StepFrom s s₀) :
    StepFrom { s with diag := d } { s₀ with diag := d } := by
  obtain ⟨hp, rfl⟩ | ⟨p, ops, hp, rfl⟩ := h
  exacts [.inl ⟨hp, rfl⟩, .inr ⟨p, ops, hp, rfl⟩]

theorem pollKey_setDiag (s : State) :
    State.pollKey { s with diag := d } = { s.pollKey with diag := d } := by
  unfold State.pollKey
  cases s.ports.keyEvent <;> rfl

theorem timerTick_setDiag (s : State) :
    State.timerTick { s with diag := d } = { s.timerTick with diag := d } := by
  unfold State.timerTick
  split_ifs <;> rfl

/-- The case of an operation that emits nothing. -/
theorem exists_append_of_silent (ht : t.diag = s.diag)
    (h : StepsTo { s with diag := d } { t with diag := d }) :
    ∃ new, t.diag = s.diag ++ new ∧ StepsTo { s with diag := d } { t with diag := d ++ new } :=
  ⟨[], by rw [ht, List.append_nil], by rwa [List.append_nil]⟩

/-- No test and no table looks at DIAG, so another DIAG leads through the same branch. -/
theorem stepsTo_setDiag (h : StepsTo s t) :
    ∃ new, t.diag = s.diag ++ new ∧ StepsTo { s with diag := d } { t with diag := d ++ new } := by
  cases h with
  | latched hf he =>
    exact exists_append_of_silent d (stepFrom_diag hf) (.latched (stepFrom_setDiag d hf) he)
  | polled hf he hw =>
    refine exists_append_of_silent d ((State.pollKey_diag _).trans (stepFrom_diag hf)) ?_
    exact pollKey_setDiag d _ ▸ .polled (stepFrom_setDiag d hf) he hw
  | fetchRaised hf he hw hpc =>
    exact ⟨_, congrArg (· ++ _) (stepFrom_diag hf :), .fetchRaised (stepFrom_setDiag d hf) he hw hpc⟩
  | reported hf hfe hd =>
    exact ⟨_, congrArg (· ++ _) (stepFrom_diag hf :), .reported (stepFrom_setDiag d hf) hfe hd⟩
  | raised hf hfe hd hk =>
    exact ⟨_, congrArg (· ++ _) (stepFrom_diag hf :), .raised (stepFrom_setDiag d hf) hfe hd hk⟩
  | executed hf hfe hd hk =>
    exact exists_append_of_silent d (stepFrom_diag hf :) (.executed (stepFrom_setDiag d hf) hfe hd hk)
  | reset hp => exact ⟨_, rfl, .reset hp⟩
  | ticked hp =>
    refine exists_append_of_silent d (State.timerTick_diag _) ?_
    exact timerTick_setDiag d _ ▸ .ticked hp
  | cleared hp => exact exists_append_of_silent d rfl (.cleared hp)
  | frameRead hp => exact exists_append_of_silent d rfl (.frameRead hp)

end

/-- Settles O24: each operation leads to the same state from another DIAG, with the same events after it. -/
theorem diagIsNeverReadBack : Obligations.DiagIsNeverReadBack := by
  intro s t d h
  obtain ⟨new, hdiag, hstep⟩ := stepsTo_setDiag d (step_eq_next_iff.mp h)
  exact ⟨new, hdiag, step_eq_next_iff.mpr hstep⟩

end Sys2Proof.Machine
end

section
/-! PROOFS. Rules over every instruction: what a raise leaves (60_exceptions R136) and the frame of each state element
(10_state R10, R11, R16, R18, R19, 20_memory R37, 40_flow R79). -/

namespace Sys2Proof.Machine

section
variable {i : Instr} {s t : State}

/-- Settles O16: a raise is its event and the latch, and no row of the tables reaches ERR or DIAG. -/
theorem aFaultingInstructionWritesNothing : Obligations.AFaultingInstructionWritesNothing := by
  intro i s t h
  obtain ⟨-, rfl⟩ | ⟨k, -, rfl⟩ := exec_cases h
  · exact .inl ⟨rfl, rfl⟩
  · exact .inr ⟨k, fatalEntry_raise s k _⟩

/-- A raise shows on DIAG, so an instruction that leaves DIAG alone has completed. -/
theorem completes_of_diag_eq (h : exec i s = .next t) (hd : t.diag = s.diag) :
    s.faultOf i = none ∧ t = s.after i := by
  obtain hc | ⟨k, -, rfl⟩ := exec_cases h
  · exact hc
  · exact absurd hd (by simp)

/-! ## FB and DIRTY -/

theorem fbAfter_of_not_writesDisplay (hw : writesDisplay i = false) : s.fbAfter i = s.fb := by
  cases i with
  | cls | drw => nomatch hw
  | _ => rfl

/-- Settles O18: the tables of FB and DIRTY have a row of their own for 00E0 and DXYN only. -/
theorem onlyDisplayInstructionsWriteTheFrame : Obligations.OnlyDisplayInstructionsWriteTheFrame := by
  intro i s t h hw
  obtain ⟨-, rfl⟩ | ⟨k, -, rfl⟩ := exec_cases h
  · exact ⟨fbAfter_of_not_writesDisplay hw, congrArg (· || s.dirty) hw⟩
  · exact ⟨rfl, rfl⟩

/-! ## SP and the stack -/

theorem stackAfter_of_not_movesStack (hm : movesStack i = false) :
    s.spAfter i = s.sp ∧ s.stackAfter i = s.stack := by
  cases i with
  | call | ret => nomatch hm
  | _ => exact ⟨rfl, rfl⟩

/-- Settles O22: the tables of SP and the stack have a row of their own for 2NNN and 00EE only. -/
theorem onlyCallAndReturnReachTheStack : Obligations.OnlyCallAndReturnReachTheStack := by
  intro i s t h hm
  obtain ⟨-, rfl⟩ | ⟨k, -, rfl⟩ := exec_cases h
  · exact stackAfter_of_not_movesStack hm
  · exact ⟨rfl, rfl⟩

/-! ## pc -/

theorem pcAfter_of_not_transfersControl (ht : transfersControl i = false) :
    s.pcAfter i = s.pc + 2 := by
  cases i with
  | ret | jp | call | jpV0 | seImm | sneImm | seReg | sneReg | skp | sknp | ldVxKey => nomatch ht
  | _ => rfl

theorem skipIf_pc_eq_or (s : State) (c : Bool) :
    (s.skipIf c).pc = s.pc + 2 ∨ (s.skipIf c).pc = s.pc + 4 := by
  cases c
  exacts [.inl rfl, .inr rfl]

/-- Settles O20: an instruction that leaves DIAG alone has completed, and its pc is the table's. -/
theorem pcAdvancesByTwoElsewhere : Obligations.PcAdvancesByTwoElsewhere := by
  intro i s t h hd
  obtain ⟨-, rfl⟩ := completes_of_diag_eq h hd
  refine ⟨pcAfter_of_not_transfersControl, ?_, ?_, ?_, ?_⟩
  · rintro x kk (rfl | rfl) <;> exact skipIf_pc_eq_or s _
  · rintro x y (rfl | rfl) <;> exact skipIf_pc_eq_or s _
  · rintro x (rfl | rfl) <;> exact skipIf_pc_eq_or s _
  · rintro x rfl
    rfl

/-! ## Memory -/

theorem memAfter_of_not_writesMemory (hw : writesMemory i = false) : s.memAfter i = s.mem := by
  cases i with
  | ldBcd | storeRegs => nomatch hw
  | _ => rfl

/-- A byte outside the span written reads as before. -/
theorem read_writeBytes_outside {m : Memory} {a a' : Nat} {bs : List Byte}
    (hfit : a + bs.length ≤ Config.memSize) (hout : a' < a ∨ a + bs.length ≤ a') :
    (m.writeBytes a bs).read a' = m.read a' := by
  rw [memory_read_writeBytes bs m a a' hfit, dif_neg (by omega)]

/-- A byte inside the span written reads as the byte written there. -/
theorem read_writeBytes_inside {m : Memory} {a k : Nat} {bs : List Byte}
    (hfit : a + bs.length ≤ Config.memSize) (hk : k < bs.length) :
    (m.writeBytes a bs).read (a + k) = bs[k] := by
  rw [memory_read_writeBytes bs m a (a + k) hfit, dif_pos (by omega)]
  simp only [Nat.add_sub_cancel_left]

theorem span_of_faultOf_ldBcd {x : Reg} (h : s.faultOf (.ldBcd x) = none) :
    s.i.toNat + 3 ≤ 0x1000 := by
  rw [faultOf_ldBcd] at h
  exact (spanFits_iff s 3).mp (by simpa using h)

theorem span_of_faultOf_storeRegs {x : Reg} (h : s.faultOf (.storeRegs x) = none) :
    s.i.toNat + (x.val + 1) ≤ 0x1000 := by
  rw [faultOf_storeRegs] at h
  exact (spanFits_iff s _).mp (by simpa using h)

theorem read_memAfter_ldBcd_outside {x : Reg} {a : Nat} (hfit : s.i.toNat + 3 ≤ 0x1000)
    (ha : a < s.i.toNat ∨ s.i.toNat + 2 < a) : (s.memAfter (.ldBcd x)).read a = s.mem.read a :=
  read_writeBytes_outside hfit ha

theorem read_memAfter_storeRegs_outside {x : Reg} {a : Nat}
    (hfit : s.i.toNat + (x.val + 1) ≤ 0x1000) (ha : a < s.i.toNat ∨ s.i.toNat + x.val < a) :
    (s.memAfter (.storeRegs x)).read a = s.mem.read a :=
  read_writeBytes_outside (by rwa [regsUpTo_length]) (by rwa [regsUpTo_length])

/-- Settles O19: the two stores write consecutive bytes from I upward, and a raise writes none. -/
theorem onlyStoresWriteMemory : Obligations.OnlyStoresWriteMemory := by
  intro i s t h
  obtain ⟨hf, rfl⟩ | ⟨k, -, rfl⟩ := exec_cases h
  · refine ⟨fun hw a => congrArg (Memory.read · a) (memAfter_of_not_writesMemory hw), ?_, ?_⟩
    · rintro x rfl a ha
      exact read_memAfter_ldBcd_outside (span_of_faultOf_ldBcd hf) ha
    · rintro x rfl a ha
      exact read_memAfter_storeRegs_outside (span_of_faultOf_storeRegs hf) ha
  · exact ⟨fun _ _ => rfl, fun _ _ _ _ => rfl, fun _ _ _ _ => rfl⟩

/-! ## The registers -/

theorem readV_writeV_of_ne {x r : Reg} (h : r ≠ x) (b : Byte) :
    (s.writeV x b).readV r = s.readV r := by
  rw [readV_writeV, if_neg h.symm]

theorem readV_writeWithFlag_of_ne_ne {x r : Reg} (hx : r ≠ x) (hF : r ≠ regF) (b : Byte) (f : Bool) :
    (s.writeWithFlag x b f).readV r = s.readV r := by
  rw [readV_writeWithFlag, if_neg hF, if_neg hx.symm]

/-- FX65 reads memory into the registers up to VX and leaves those above. -/
theorem readV_after_loadRegs (s : State) (x r : Reg) : (s.after (.loadRegs x)).readV r =
    if r.val ≤ x.val then s.mem.read (s.i.toNat + r.val) else s.readV r := by
  refine (writeRegsFrom_getElem _ s.v 0 r.val r.isLt).trans ?_
  simp only [memory_readBytes_length, memory_readBytes_getElem, Nat.zero_le, true_and, Nat.sub_zero,
    Nat.lt_succ_iff, dite_eq_ite]
  rfl

theorem readV_after_of_not_destRegs {r : Reg} (hr : r ∉ destRegs i)
    (hF : r = regF → writesFlag i = false) : (s.after i).readV r = s.readV r := by
  have ne_regF (hw : writesFlag i = true) : r ≠ regF := fun h => nomatch hw.symm.trans (hF h)
  cases i with
  | ldImm x | addImm x | ldReg x | orReg x | andReg x | xorReg x | rnd x | ldVxDt x =>
    exact readV_writeV_of_ne (List.ne_of_not_mem_cons hr) _
  | addReg x | subReg x | shr x | subnReg x | shl x =>
    exact readV_writeWithFlag_of_ne_ne (List.ne_of_not_mem_cons hr) (ne_regF rfl) _ _
  | drw | addI => exact readV_writeV_of_ne (ne_regF rfl) _
  | loadRegs x =>
    rw [readV_after_loadRegs, if_neg fun hle => hr (by simpa [destRegs] using hle)]
  | _ => rfl

theorem flagByte_eq_zero_or_one (f : Bool) : flagByte f = 0 ∨ flagByte f = 1 := by
  cases f
  exacts [.inl rfl, .inr rfl]

theorem readV_after_regF (hw : writesFlag i = true) : ∃ f, (s.after i).readV regF = flagByte f := by
  cases i with
  | addReg | subReg | shr | subnReg | shl => exact ⟨_, readV_writeWithFlag_regF s _ _ _⟩
  | drw | addI => exact ⟨_, readV_writeV_same s regF _⟩
  | _ => nomatch hw

/-- Settles O21: the flag is written after the result, so VF holds a flag under each of the seven. -/
theorem registersChangeOnlyAsNamed : Obligations.RegistersChangeOnlyAsNamed := by
  intro i s t h
  constructor
  · intro r hr hF
    obtain ⟨-, rfl⟩ | ⟨k, -, rfl⟩ := exec_cases h
    · exact readV_after_of_not_destRegs hr hF
    · rfl
  · intro hw hd
    obtain ⟨-, rfl⟩ := completes_of_diag_eq h hd
    obtain ⟨f, hf⟩ := readV_after_regF (s := s) hw
    rw [hf]
    exact flagByte_eq_zero_or_one f

end

end Sys2Proof.Machine
end

section
/-! PROOFS. Decoding keeps every bit of a word (30_encoding R53, R57), and words written out from the opcode map
(R54, R56). -/

namespace Sys2Proof

/-- Settles O2: decoding answers an instruction only for the word of that instruction. -/
theorem encodeInvertsDecode : Obligations.EncodeInvertsDecode := by
  intro w i hd
  have hans := decodeWord_answers w
  rw [hd] at hans
  exact ⟨hans, instr_wellFormed i⟩

/-- Settles O4: ten words, evaluated. -/
theorem wordsDecodeAsWritten : Obligations.WordsDecodeAsWritten := by
  unfold Obligations.WordsDecodeAsWritten
  decide

end Sys2Proof
end

section
/-! PROOFS. Canonical memories are determined by what their addresses read as (20_memory R30). -/

namespace Sys2Proof.Machine

section
variable {c c' : Host.Cell} {m m' : Memory}

theorem memory_wf_tail (h : Memory.wf (c :: m)) : m.wf := by
  obtain ⟨hp, hc⟩ := h
  exact ⟨hp.of_cons, fun d hd => hc d (List.mem_cons_of_mem c hd)⟩

/-- An address no entry names reads as the reset contents. -/
theorem memory_read_of_not_mem {a : Nat} (h : ∀ c ∈ m, c.1 ≠ a) : m.read a = Memory.initial a := by
  induction m with
  | nil => rfl
  | cons c m ih =>
    rw [memory_read_cons, if_neg (h c List.mem_cons_self).symm,
      ih fun d hd => h d (List.mem_cons_of_mem c hd)]

/-- The rising order: an address up to the first entry's is in no later entry. -/
theorem memory_read_tail_of_le {a : Nat} (h : Memory.wf (c :: m)) (ha : a ≤ c.1) :
    m.read a = Memory.initial a := by
  obtain ⟨hp, -⟩ := h
  exact memory_read_of_not_mem fun d hd => Nat.ne_of_gt (ha.trans_lt (List.rel_of_pairwise_cons hp hd))

theorem memory_read_cons_self (c : Host.Cell) (m : Memory) : Memory.read (c :: m) c.1 = c.2 := by
  rw [memory_read_cons, if_pos rfl]

/-- The lowest address that reads other than at reset is the first entry's. -/
theorem memory_head_le_of_reads_eq (h : Memory.wf (c :: m)) (h' : Memory.wf (c' :: m'))
    (hread : ∀ a, Memory.read (c :: m) a = Memory.read (c' :: m') a) : c'.1 ≤ c.1 := by
  by_contra hlt
  obtain ⟨-, hne⟩ := id h
  obtain ⟨-, hc⟩ := hne c List.mem_cons_self
  apply hc
  calc c.2 = Memory.read (c' :: m') c.1 := by rw [← hread, memory_read_cons_self]
    _ = m'.read c.1 := by rw [memory_read_cons, if_neg (by omega)]
    _ = Memory.initial c.1 := memory_read_tail_of_le h' (by omega)

theorem memory_nil_of_reads_initial (h : m.wf) (hread : ∀ a, m.read a = Memory.initial a) : m = [] := by
  cases m with
  | nil => rfl
  | cons c m =>
    obtain ⟨-, hne⟩ := h
    obtain ⟨-, hc⟩ := hne c List.mem_cons_self
    exact absurd ((memory_read_cons_self c m).symm.trans (hread c.1)) hc

end

/-- Settles O25: the first entries agree, and without them the two memories still read alike. -/
theorem equalReadsEqualMemories : Obligations.EqualReadsEqualMemories := by
  intro m
  induction m with
  | nil => exact fun m' _ h' hread => (memory_nil_of_reads_initial h' fun a => (hread a).symm).symm
  | cons c m ih =>
    intro m' h h' hread
    cases m' with
    | nil => exact memory_nil_of_reads_initial h hread
    | cons c' m' =>
      have haddr : c.1 = c'.1 := Nat.le_antisymm
        (memory_head_le_of_reads_eq h' h fun a => (hread a).symm) (memory_head_le_of_reads_eq h h' hread)
      have hcell : c = c' := Prod.ext haddr <| by
        rw [← memory_read_cons_self c m, hread, haddr, memory_read_cons_self]
      subst hcell
      refine congrArg (c :: ·) (ih m' (memory_wf_tail h) (memory_wf_tail h') fun a => ?_)
      by_cases ha : a = c.1
      · rw [memory_read_tail_of_le h ha.le, memory_read_tail_of_le h' ha.le]
      · have := hread a
        rwa [memory_read_cons, memory_read_cons, if_neg ha, if_neg ha] at this

end Sys2Proof.Machine
end

section
/-! PROOFS. Call and return (40_flow R70, R72, 60_exceptions R132, R133). -/

namespace Sys2Proof.Machine

section
variable {s : State}

theorem faultOf_call_of_lt (nnn : Addr) (h : s.sp.val < 16) : s.faultOf (.call nnn) = none := by
  rw [faultOf_call, if_neg (by omega)]

theorem faultOf_ret_of_pos (h : 0 < s.sp.val) : s.faultOf .ret = none := by
  rw [faultOf_ret, if_neg (by omega)]

theorem stackTop_eq_getElem {k : Fin 16} (hk : k.val + 1 = s.sp.val) : s.stackTop = s.stack[k.val] := by
  have hidx : s.sp.val - 1 = k.val := by omega
  simp only [State.stackTop, hidx]

theorem push_stackTop (h : s.sp.val < 16) : s.push.stackTop = s.pc := by
  rw [stackTop_eq_getElem (k := ⟨s.sp.val, h⟩) (push_sp_val h).symm, push_stack_getElem, if_pos rfl]

theorem push_pop_sp (h : s.sp.val < 16) : s.push.pop.sp = s.sp := by
  have hpush := push_sp_val h
  have hpop := pop_sp_val (s := s.push) (by omega)
  exact Fin.ext (by omega)

end

/-- Settles O28: SP is tested before the push, so a call at SP = 16 touches no entry. -/
theorem callPushesItsOwnAddress : Obligations.CallPushesItsOwnAddress := fun nnn s =>
  ⟨decodeWord_encode (.call nnn),
    fun h => ⟨s.after (.call nnn), exec_of_faultOf_none (faultOf_call_of_lt nnn h),
      targetOf_toNat nnn, push_sp_val h, push_stack_getElem s, rfl, fun _ => rfl⟩,
    fun h => ⟨_, exec_of_faultOf_some ((faultOf_call s nnn).trans (if_pos h)), fatalEntry_raise s _ _⟩⟩

/-- Settles O29: the return leaves the stack array alone, the popped entry included. -/
theorem returnGoesPastTheCall : Obligations.ReturnGoesPastTheCall := fun s =>
  ⟨decodeWord_encode .ret,
    fun h => ⟨s.after .ret, exec_of_faultOf_none (faultOf_ret_of_pos h), pop_sp_val h,
      fun _ hk => congrArg (· + 2) (stackTop_eq_getElem hk), rfl, fun _ => rfl⟩,
    fun h => ⟨_, exec_of_faultOf_some ((faultOf_ret s).trans (if_pos h)), fatalEntry_raise s _ _⟩⟩

/-- Settles O30: the entry on top after the call is the call's own pc. -/
theorem callThenReturnComesBack : Obligations.CallThenReturnComesBack := by
  intro nnn s h
  have hret : 0 < (s.after (.call nnn)).sp.val := (push_sp_val h).symm ▸ Nat.succ_pos _
  exact ⟨s.after (.call nnn), (s.after (.call nnn)).after .ret,
    exec_of_faultOf_none (faultOf_call_of_lt nnn h), exec_of_faultOf_none (faultOf_ret_of_pos hret),
    congrArg (· + 2) (push_stackTop h), push_pop_sp h, rfl, fun _ => rfl⟩

end Sys2Proof.Machine
end

section
/-! PROOFS. The destination VF (10_state R12, D7), the ignored Y of the shifts (30_encoding R57), the random byte
(41_alu R91) and FX1E (42_index_memory R101). -/

namespace Sys2Proof.Machine

section
variable {i : Instr} {s : State} {x : Reg} {b : Byte} {f : Bool}

/-- The flag is written last, so with X = 0xF it is what VF holds. -/
theorem completes_of_writeWithFlag_regF {flag : Nat}
    (hexec : exec i s = .next (s.writeWithFlag regF b f).advance) (hflag : (flagByte f).toNat = flag) :
    ∃ t, exec i s = .next t ∧ t.pc = s.pc + 2 ∧ OnlyRegs [regF] s t ∧ (t.readV regF).toNat = flag := by
  obtain ⟨hframe, hregs, hmem⟩ := onlyRegs_writeWithFlag_advance s regF b f
  refine ⟨_, hexec, rfl, ⟨hframe, fun r hr => hregs r (by simpa using hr), hmem⟩, ?_⟩
  rw [readV_advance, readV_writeWithFlag_regF, hflag]

/-- A write to VZ with Z other than X is not seen by an instruction that reads VX alone. -/
theorem shift_independent_of_other (result : Byte → Byte) (flag : Byte → Bool) {z : Reg} (hz : z ≠ x)
    (s : State) (b : Byte) (hexec : ∀ s : State,
      exec i s = .next (s.writeWithFlag x (result (s.readV x)) (flag (s.readV x))).advance) :
    ∃ t u, exec i s = .next t ∧ exec i (s.writeV z b) = .next u ∧
      t.readV x = u.readV x ∧ t.readV regF = u.readV regF := by
  refine ⟨_, _, hexec s, hexec (s.writeV z b), ?_, ?_⟩
  · rw [readV_writeV_of_ne hz.symm]
    simp only [readV_advance, readV_writeWithFlag, if_true]
  · rw [readV_writeV_of_ne hz.symm]
    simp only [readV_advance, readV_writeWithFlag_regF]

end

/-- Settles O38: each of the five computes its flag from the values before either write. -/
theorem withDestinationVFTheFlagRemains : Obligations.WithDestinationVFTheFlagRemains := by
  rintro y s _ _ rfl rfl
  exact
    ⟨completes_of_writeWithFlag_regF (exec_addReg regF y s) (flagByte_flagCarry_toNat _ _),
      completes_of_writeWithFlag_regF (exec_subReg regF y s) (flagByte_flagGreater_toNat _ _),
      completes_of_writeWithFlag_regF (exec_shr regF y s) (flagByte_flagLowBit_toNat _),
      completes_of_writeWithFlag_regF (exec_subnReg regF y s) (flagByte_flagGreater_toNat _ _),
      completes_of_writeWithFlag_regF (exec_shl regF y s) (flagByte_flagHighBit_toNat _)⟩

/-- Settles O39: both shifts are a result and a flag of VX alone. -/
theorem shiftsIgnoreY : Obligations.ShiftsIgnoreY := by
  intro x y s
  refine ⟨decodeWord_encode (.shr x y), decodeWord_encode (.shl x y), rfl, rfl, fun z hz b => ?_⟩
  obtain ⟨t, u, ht, hu, hx, hF⟩ := shift_independent_of_other (· >>> 1) flagLowBit hz s b (exec_shr x z)
  obtain ⟨t', u', ht', hu', hx', hF'⟩ :=
    shift_independent_of_other (· <<< 1) flagHighBit hz s b (exec_shl x z)
  exact ⟨t, u, t', u', ht, hu, hx, hF, ht', hu', hx', hF'⟩

theorem exec_rnd (x : Reg) (kk : Byte) (s : State) :
    exec (.rnd x kk) s = .next (s.writeV x (s.ports.rnd &&& kk)).advance := rfl

/-- Settles O40: the mask acts bit by bit on the sampled byte. -/
theorem randomByteIsMasked : Obligations.RandomByteIsMasked := fun x kk s =>
  ⟨decodeWord_encode (.rnd x kk), completes_of_writeV_bits (exec_rnd x kk s) fun _ => BitVec.getLsbD_and⟩

/-- The sum is taken in the 12 bits of I. -/
theorem addI_toNat (i : Addr) (a : Byte) :
    (i + a.setWidth 12).toNat = (i.toNat + a.toNat) % 0x1000 := by
  rw [BitVec.toNat_add, BitVec.toNat_setWidth_of_le (by decide)]

/-- Settles O42: VF is the only register FX1E writes, X = 0xF included. -/
theorem addToIndexWrapsAndFlags : Obligations.AddToIndexWrapsAndFlags := by
  rintro x s _ rfl
  refine ⟨decodeWord_encode (.addI x), s.after (.addI x), exec_of_faultOf_none rfl, addI_toNat _ _,
    ?_, rfl, fun r hr => ?_, fun _ => rfl, rfl⟩
  · exact (congrArg BitVec.toNat (readV_writeV_same s regF _)).trans (flagByte_decide_toNat _)
  · exact readV_writeV_of_ne (List.ne_of_not_mem_cons hr) _

end Sys2Proof.Machine
end

section
/-! PROOFS. The memory transfers (42_index_memory R103 to R105, 20_memory R38, R43): each checks its last address
before any byte moves. -/

namespace Sys2Proof.Machine

section
variable {s : State} {n : Nat}

/-- The spec's bounds name the last byte moved, the model's the number of bytes. -/
theorem spanFits_of_last_le (h : s.i.toNat + n ≤ 0xFFF) : s.spanFits (n + 1) = true :=
  (spanFits_iff s _).mpr (by omega)

theorem not_spanFits_of_lt_last (h : 0xFFF < s.i.toNat + n) : ¬s.spanFits (n + 1) = true := fun hfit => by
  have := (spanFits_iff s _).mp hfit
  omega

theorem byte_ofNat_toNat (h : n < 256) : (BitVec.ofNat 8 n).toNat = n := by
  rw [BitVec.toNat_ofNat, Nat.mod_eq_of_lt h]

theorem read_after_ldBcd (x : Reg) (hfit : s.i.toNat + 2 ≤ 0xFFF) {k : Nat} (hk : k < 3) :
    (s.after (.ldBcd x)).mem.read (s.i.toNat + k) = (decimalDigits (s.readV x))[k] :=
  read_writeBytes_inside (by simp only [decimalDigits_length, Config.memSize]; omega) hk

theorem read_after_storeRegs {x r : Reg} (hfit : s.i.toNat + x.val ≤ 0xFFF) (hr : r.val ≤ x.val) :
    (s.after (.storeRegs x)).mem.read (s.i.toNat + r.val) = s.readV r := by
  have hlen : r.val < (s.regsUpTo x).length := by rw [regsUpTo_length]; omega
  refine (read_writeBytes_inside ?_ hlen).trans (regsUpTo_getElem s x r.val hlen)
  simp only [regsUpTo_length, Config.memSize]
  omega

theorem exec_storeRegs_of_fits {x : Reg} (hfit : s.i.toNat + x.val ≤ 0xFFF) :
    exec (.storeRegs x) s = .next (s.after (.storeRegs x)) :=
  exec_of_faultOf_none ((faultOf_storeRegs s x).trans (if_pos (spanFits_of_last_le hfit)))

end

/-- Settles O44: a byte is below 256, so each digit fits the byte it is stored in. -/
theorem decimalStoreWritesThreeDigits : Obligations.DecimalStoreWritesThreeDigits := by
  intro x s
  have hlt : (s.readV x).toNat < 256 := (s.readV x).isLt
  refine ⟨decodeWord_encode (.ldBcd x), fun h => ?_, fun h => ?_⟩
  · have digit {k : Nat} (hk : k < 3) : ((s.after (.ldBcd x)).mem.read (s.i.toNat + k)).toNat =
        (decimalDigits (s.readV x))[k].toNat :=
      congrArg BitVec.toNat (read_after_ldBcd x h hk)
    exact ⟨s.after (.ldBcd x),
      exec_of_faultOf_none ((faultOf_ldBcd s x).trans (if_pos (spanFits_of_last_le h))),
      (digit (k := 0) (by decide)).trans (byte_ofNat_toNat (by omega)),
      (digit (k := 1) (by decide)).trans (byte_ofNat_toNat (by omega)),
      (digit (k := 2) (by decide)).trans (byte_ofNat_toNat (by omega)),
      fun a ha => read_memAfter_ldBcd_outside (by omega) ha, rfl, rfl⟩
  · exact ⟨_, exec_of_faultOf_some ((faultOf_ldBcd s x).trans (if_neg (not_spanFits_of_lt_last h))),
      fatalEntry_raise s _ _⟩

/-- Settles O45: byte r of the span is V[r], and I is not written. -/
theorem registerStoreWritesV0ToVX : Obligations.RegisterStoreWritesV0ToVX := fun x s =>
  ⟨decodeWord_encode (.storeRegs x),
    fun h => ⟨s.after (.storeRegs x), exec_storeRegs_of_fits h, fun _ => read_after_storeRegs h,
      fun _ ha => read_memAfter_storeRegs_outside (by omega) ha, rfl, rfl⟩,
    fun h => ⟨_, exec_of_faultOf_some
      ((faultOf_storeRegs s x).trans (if_neg (not_spanFits_of_lt_last h))), fatalEntry_raise s _ _⟩⟩

/-- Settles O46: V[r] is byte r of the span, and I is not written. -/
theorem registerLoadReadsV0ToVX : Obligations.RegisterLoadReadsV0ToVX := fun x s =>
  ⟨decodeWord_encode (.loadRegs x),
    fun h => ⟨s.after (.loadRegs x), exec_of_faultOf_none
      ((faultOf_loadRegs s x).trans (if_pos (spanFits_of_last_le h))), readV_after_loadRegs s x, rfl, rfl,
      fun _ => rfl⟩,
    fun h => ⟨_, exec_of_faultOf_some
      ((faultOf_loadRegs s x).trans (if_neg (not_spanFits_of_lt_last h))), fatalEntry_raise s _ _⟩⟩

/-- Settles O47: the fetch at I reads the first two bytes of the span. -/
theorem storedBytesAreFetched : Obligations.StoredBytesAreFetched := by
  intro x s hx hfit
  refine ⟨_, exec_storeRegs_of_fits hfit, ?_⟩
  have hpc : (s.i.setWidth 16).toNat = s.i.toNat := BitVec.toNat_setWidth_of_le (by decide)
  have hhi := read_after_storeRegs (r := 0) hfit (Nat.zero_le _)
  have hlo := read_after_storeRegs (r := 1) hfit hx
  unfold State.fetchWord
  simp only [hpc]
  exact congrArg₂ wordOfBytes hhi hlo

end Sys2Proof.Machine
end

section
/-! PROOFS. Key skips and the key wait's beginning (44_keys_timers R120, R121, R123). -/

namespace Sys2Proof.Machine

section
variable (x : Reg) (s : State)

theorem exec_skp : exec (.skp x) s = .next (s.skipIf (s.keyDown (s.readV x))) := rfl

theorem exec_sknp : exec (.sknp x) s = .next (s.skipIf (!s.keyDown (s.readV x))) := rfl

theorem exec_ldVxKey : exec (.ldVxKey x) s = .next { s with wait := true, waitX := x } := rfl

theorem skipIf_pc_eq_add (c : Bool) : (s.skipIf c).pc = s.pc + (if c then 4 else 2) := by
  cases c <;> rfl

theorem skipIf_not_pc_eq_add (c : Bool) : (s.skipIf !c).pc = s.pc + (if c then 2 else 4) := by
  cases c <;> rfl

end

/-- Settles O52: the two are one skip on the sampled line and on its negation. -/
theorem keySkipsTestTheSampledLine : Obligations.KeySkipsTestTheSampledLine := by
  rintro x s _ rfl
  exact ⟨decodeWord_encode (.skp x), decodeWord_encode (.sknp x),
    ⟨_, exec_skp x s, skipIf_pc_eq_add s _, onlyPc_skipIf s _⟩,
    ⟨_, exec_sknp x s, skipIf_not_pc_eq_add s _, onlyPc_skipIf s _⟩⟩

/-- Settles O54: the ports are read by the Steps that follow. -/
theorem keyWaitBeginsAndHoldsPc : Obligations.KeyWaitBeginsAndHoldsPc := fun x s =>
  ⟨decodeWord_encode (.ldVxKey x), _, exec_ldVxKey x s, rfl, rfl, rfl, rfl, fun _ => rfl⟩

end Sys2Proof.Machine
end

section
/-! PROOFS. Reset (70_reset_and_hazards R160, 20_memory R44, 10_state R25, R26). -/

namespace Sys2Proof.Machine

section
variable {s : State} {rom : List Byte} {ops : List HostOp}

theorem step_reset_fits (hp : s.pending = .reset rom :: ops) (h : rom.length ≤ 3584) :
    step s = .next { State.reset with
      mem := Memory.writeBytes [] 0x200 rom
      diag := s.diag ++ []
      pending := ops
      sampleIx := s.sampleIx } := by
  refine (step_of_pending hp).trans ?_
  simp only [hostOp, State.resetWith, afterReset_fits h]
  rfl

theorem step_reset_too_long (hp : s.pending = .reset rom :: ops) (h : 3584 < rom.length) :
    step s = .next { State.reset with
      err := some .loadError
      diag := s.diag ++ [.fatal .loadError 0x0200 0x0000]
      pending := ops
      sampleIx := s.sampleIx } := by
  refine (step_of_pending hp).trans ?_
  simp only [hostOp, State.resetWith, afterReset_too_long h]
  rfl

end

/-- Settles O58: the ROM is written over the reset memory, and 0x200 + 3584 is 0x1000. -/
theorem resetLoadsTheRom : Obligations.ResetLoadsTheRom := by
  intro s rom ops h hp
  have hfit : 0x200 + rom.length ≤ Config.memSize := by simp only [Config.memSize]; omega
  exact ⟨_, step_reset_fits hp h, rfl, List.append_nil _, fun _ hk => read_writeBytes_inside hfit hk,
    fun _ ha => read_writeBytes_outside hfit ha⟩

/-- Settles O59: the length is tested before any byte is copied. -/
theorem resetRefusesALongRom : Obligations.ResetRefusesALongRom := fun _ _ _ h hp =>
  ⟨_, step_reset_too_long hp h, rfl, rfl⟩

theorem memory_initial_of_le {a : Nat} (h : 80 ≤ a) : Memory.initial a = 0 := by
  have hnone : Config.font[a - Config.fontBase]? = none := List.getElem?_eq_none h
  rw [Memory.initial, hnone]
  rfl

/-- Settles O60: the elements are the literals of State.reset, and nothing is stored, so memory reads as the font and
zeros. -/
theorem resetLeavesTheListedValues : Obligations.ResetLeavesTheListedValues :=
  ⟨by decide, rfl, rfl, rfl, by decide, rfl, rfl, pixel_clear, rfl, rfl, rfl, rfl, rfl,
    fun _ => memory_initial_of_le, by decide⟩

end Sys2Proof.Machine
end

section
/-! PROOFS. Drawing (43_display R111, R112, 60_exceptions R134, R135, R138): the cells of a sprite, what toggling
them does, and the draw. -/

namespace Sys2Proof.Machine

/-! ## The cells toggled -/

/-- Toggling distinct cells of the grid inverts each of them once and no other cell. -/
theorem pixel_toggleAll {cells : List (Nat × Nat)} (fb : Framebuffer) (hnd : cells.Nodup)
    (hin : ∀ c ∈ cells, c.1 < 64 ∧ c.2 < 32) (a b : Nat) :
    (fb.toggleAll cells).pixel a b = (fb.pixel a b ^^ decide ((a, b) ∈ cells)) := by
  induction cells generalizing fb with
  | nil => exact (Bool.xor_false _).symm
  | cons c cells ih =>
    obtain ⟨hc, hnd⟩ := List.nodup_cons.mp hnd
    obtain ⟨⟨hx, hy⟩, hin⟩ := List.forall_mem_cons.mp hin
    refine (ih (fb.toggle c) hnd hin).trans ?_
    rw [pixel_toggle fb c a b hx hy]
    by_cases h : c = (a, b)
    · subst h
      simp [hc]
    · simp [h, Ne.symm h]

/-- Toggling the same cells twice gives the grid back. -/
theorem toggleAll_toggleAll {cells : List (Nat × Nat)} (fb : Framebuffer) (hnd : cells.Nodup)
    (hin : ∀ c ∈ cells, c.1 < 64 ∧ c.2 < 32) : (fb.toggleAll cells).toggleAll cells = fb :=
  framebuffer_ext fun a b _ _ => by
    rw [pixel_toggleAll _ hnd hin, pixel_toggleAll _ hnd hin, Bool.xor_assoc, Bool.xor_self,
      Bool.xor_false]

theorem flagByte_eq_one_iff (f : Bool) : flagByte f = 1 ↔ f = true := by cases f <;> decide

theorem flagByte_eq_zero_iff (f : Bool) : flagByte f = 0 ↔ f = false := by cases f <;> decide

section
variable {s : State} {x y : Reg} {n : Nibble} {cells : List (Nat × Nat)}

theorem drawCells_nodup (s : State) (x y : Reg) (n : Nibble) : (s.drawCells x y n).Nodup :=
  spriteCells_nodup _ _ _

/-- The cells the model toggles are those the spec's rule names. -/
theorem mem_drawCells_iff {a b : Nat} :
    (a, b) ∈ s.drawCells x y n ↔ SpriteCovers s (s.readV x) (s.readV y) n a b := by
  rw [State.drawCells, mem_spriteCells]
  simp only [memory_readBytes_length, memory_readBytes_getElem, Prod.mk.injEq, SpriteCovers]
  constructor
  · rintro ⟨r, k, hr, hk, ⟨hx, hy⟩, hbit⟩
    exact ⟨r, k, hr, hk, hx, hy, hbit⟩
  · rintro ⟨r, k, hr, hk, hx, hy, hbit⟩
    exact ⟨r, k, hr, hk, ⟨hx, hy⟩, hbit⟩

theorem any_offGrid_iff : cells.any offGrid = true ↔ ∃ a b, (a, b) ∈ cells ∧ (64 ≤ a ∨ 32 ≤ b) := by
  simp [offGrid]

theorem any_pixel_iff {fb : Framebuffer} :
    (cells.any fun c => fb.pixel c.1 c.2) = true ↔ ∃ a b, (a, b) ∈ cells ∧ fb.pixel a b = true := by
  simp

theorem inGrid_of_any_offGrid (h : cells.any offGrid = false) : ∀ c ∈ cells, c.1 < 64 ∧ c.2 < 32 := by
  simpa [offGrid] using h

/-! ## When a draw raises -/

theorem faultOf_drw_of_gt (h : 0x1000 < s.i.toNat + n.toNat) :
    s.faultOf (.drw x y n) = some .memoryOutOfBounds := by
  rw [faultOf_drw, if_neg fun hfit => by have := (spanFits_iff s _).mp hfit; omega]

theorem faultOf_drw_of_le (h : s.i.toNat + n.toNat ≤ 0x1000) : s.faultOf (.drw x y n) =
    if (s.drawCells x y n).any offGrid then some .frameBufferOutOfBounds else none := by
  rw [faultOf_drw, if_pos ((spanFits_iff s _).mpr h)]

theorem any_offGrid_of_faultOf_drw (h : s.faultOf (.drw x y n) = none) :
    (s.drawCells x y n).any offGrid = false := by
  rw [faultOf_drw] at h
  split_ifs at h with _ hoff
  exact Bool.eq_false_iff.mpr hoff

/-! ## What a draw that completes leaves -/

theorem pixel_after_drw (hoff : (s.drawCells x y n).any offGrid = false) (a b : Nat) :
    (s.after (.drw x y n)).fb.pixel a b =
      (s.fb.pixel a b ^^ decide ((a, b) ∈ s.drawCells x y n)) :=
  pixel_toggleAll s.fb (drawCells_nodup s x y n) (inGrid_of_any_offGrid hoff) a b

theorem readV_regF_after_drw (s : State) (x y : Reg) (n : Nibble) :
    (s.after (.drw x y n)).readV regF =
      flagByte ((s.drawCells x y n).any fun c => s.fb.pixel c.1 c.2) :=
  readV_writeV_same s regF _

/-- A draw writes neither memory nor I, so the second draw's sprite is the first's. -/
theorem drawCells_after_drw (hx : (s.after (.drw x y n)).readV x = s.readV x)
    (hy : (s.after (.drw x y n)).readV y = s.readV y) :
    (s.after (.drw x y n)).drawCells x y n = s.drawCells x y n := by
  unfold State.drawCells
  rw [hx, hy]
  rfl

/-- After a draw with no collision each of its cells is on, so a second draw meets one unless there is none. -/
theorem second_collision_iff (hoff : (s.drawCells x y n).any offGrid = false)
    (hfirst : ((s.drawCells x y n).any fun c => s.fb.pixel c.1 c.2) = false) :
    ((s.drawCells x y n).any fun c => (s.after (.drw x y n)).fb.pixel c.1 c.2) = true ↔
      s.drawCells x y n ≠ [] := by
  have on_after {a b : Nat} (hc : (a, b) ∈ s.drawCells x y n) :
      (s.after (.drw x y n)).fb.pixel a b = true := by
    have hbefore : s.fb.pixel a b = false :=
      Bool.eq_false_iff.mpr fun hon => Bool.eq_false_iff.mp hfirst (any_pixel_iff.mpr ⟨a, b, hc, hon⟩)
    rw [pixel_after_drw hoff, hbefore, decide_eq_true hc]
    rfl
  rw [any_pixel_iff]
  constructor
  · rintro ⟨a, b, hc, -⟩
    exact List.ne_nil_of_mem hc
  · intro hne
    obtain ⟨⟨a, b⟩, hc⟩ := List.exists_mem_of_ne_nil _ hne
    exact ⟨a, b, hc, on_after hc⟩

end

/-! ## The obligations -/

/-- Settles O49: the cells toggled are the covered ones, each once, and the flag is read before any of them
changes. -/
theorem drawInvertsTheSpriteCells : Obligations.DrawInvertsTheSpriteCells := by
  intro x y n s
  refine ⟨decodeWord_encode (.drw x y n), fun hfit hin => ?_⟩
  simp only [← mem_drawCells_iff] at hin ⊢
  have hoff : (s.drawCells x y n).any offGrid = false := by
    refine Bool.eq_false_iff.mpr fun h => ?_
    obtain ⟨a, b, hc, hout⟩ := any_offGrid_iff.mp h
    have := hin a b hc
    omega
  have hf : s.faultOf (.drw x y n) = none := by
    rw [faultOf_drw_of_le hfit, hoff]
    rfl
  refine ⟨s.after (.drw x y n), exec_of_faultOf_none hf, fun a b => ?_, ?_, rfl, rfl,
    fun r hr => readV_writeV_of_ne (List.ne_of_not_mem_cons hr) _, fun _ => rfl, rfl⟩
  · rw [pixel_after_drw hoff, Bool.coe_xor_iff, decide_eq_true_iff]
  · rw [readV_regF_after_drw, flagByte_eq_one_iff, flagByte_eq_zero_iff, ← any_pixel_iff,
      Bool.not_eq_true, and_self_iff, and_self_iff]
    exact Bool.eq_false_or_eq_true _

/-- Settles O50: the memory bound is tested first, then every set bit, and a raise writes nothing. -/
theorem drawRejectsWhatLiesOutside : Obligations.DrawRejectsWhatLiesOutside := by
  intro x y n s
  refine ⟨fun h => ⟨_, exec_of_faultOf_some (faultOf_drw_of_gt h), fatalEntry_raise s _ _⟩,
    fun hfit hout => ?_⟩
  simp only [← mem_drawCells_iff] at hout
  have hoff : (s.drawCells x y n).any offGrid = true := any_offGrid_iff.mpr hout
  exact ⟨_, exec_of_faultOf_some ((faultOf_drw_of_le hfit).trans (if_pos hoff)), fatalEntry_raise s _ _⟩

/-- Settles O51: the second draw toggles the same cells from the first one's framebuffer. -/
theorem drawingTwiceRestoresTheFrame : Obligations.DrawingTwiceRestoresTheFrame := by
  intro x y n s t h hd hx hy
  obtain ⟨hf, rfl⟩ := completes_of_diag_eq h hd
  have hcells := drawCells_after_drw hx hy
  have hoff := any_offGrid_of_faultOf_drw hf
  have hf' : (s.after (.drw x y n)).faultOf (.drw x y n) = none := by
    refine Eq.trans ?_ hf
    rw [faultOf_drw, faultOf_drw, hcells]
    rfl
  refine ⟨_, exec_of_faultOf_none hf', ?_, rfl, fun hfirst => ?_⟩
  · change (s.fb.toggleAll (s.drawCells x y n)).toggleAll ((s.after (.drw x y n)).drawCells x y n) = s.fb
    rw [hcells, toggleAll_toggleAll _ (drawCells_nodup s x y n) (inGrid_of_any_offGrid hoff)]
  · rw [readV_regF_after_drw, flagByte_eq_zero_iff] at hfirst
    rw [readV_regF_after_drw, flagByte_eq_one_iff, hcells]
    exact second_collision_iff hoff hfirst

end Sys2Proof.Machine
end
